-- ==== Sys2Proof/Word.lean ====
section
/-! DEFINITION. The data types of the spec: bytes, the two glyph encodings, the frame record, the fixed constants of
00_scope.md R6 and the DISPLAY's cells and cursor (44_environment.md R123). -/

namespace Sys2Proof

/-- A byte; bit 0 is the least significant (00_scope.md R9). -/
abbrev Byte := BitVec 8

/-- A 32-bit status value (10_state.md R30 to R33). -/
abbrev Word := BitVec 32

/-- Pixel rows per glyph (00_scope.md R6). -/
abbrev glyphRows : Nat := 8

/-- Pixel columns per glyph (00_scope.md R6). -/
abbrev glyphCols : Nat := 5

/-- Bytes of a frame record (00_scope.md R6). -/
abbrev recordBytes : Nat := 40

/-- Columns of the character display (00_scope.md R6). -/
abbrev displayCols : Nat := 16

/-- Rows of the character display (00_scope.md R6). -/
abbrev displayRows : Nat := 2

/-- The acknowledgment byte ACK_CHAR, 'A' (00_scope.md R6, 42_sequencer.md R103; log 14). -/
def ackChar : Byte := 0x41#8

/-- DEFAULT_PORT (00_scope.md R6). -/
def defaultPort : BitVec 16 := 8888#16

/-- A column-major glyph: byte c is pixel column c (30_encoding.md R56). -/
abbrev CmGlyph := Vector Byte 5

/-- A row-major glyph: byte r is pixel row r (30_encoding.md R57). -/
abbrev RmGlyph := Vector Byte 8

/-- A frame record: 8 column-major glyphs (30_encoding.md R58). -/
abbrev FrameRecord := Vector Byte 40

/-- What one character cell of the DISPLAY holds (44_environment.md R123). -/
inductive CellContent where
  | blank
  | code (k : Byte)
  | text (b : Byte)
deriving DecidableEq, Repr, Inhabited

/-- The DISPLAY's cursor: a position, or UNSPEC (44_environment.md R123). -/
inductive Cursor where
  | unspec
  | pos (col row : Byte)
deriving DecidableEq, Repr, Inhabited

/-- The reference display model: 8 glyph slots, `cell[row][col]` and the cursor (44_environment.md R123). -/
structure Display where
  slot : Vector RmGlyph 8
  cell : Vector (Vector CellContent 16) 2
  cursor : Cursor
deriving DecidableEq, Repr, Inhabited

end Sys2Proof
end

