-- ==== Sys2Proof/Syntax.lean ====
section
/-! DEFINITION. The transactions of the GFE, one constructor per row of spec/opcode_table.json (30_encoding.md R62), and the
pseudo-tokens of the trace notation (R73). -/

namespace Sys2Proof

/-- A transaction token (30_encoding.md R62). The GFE has no instruction set: these are its "instructions" (00_scope.md R2). -/
inductive Instr where
  /-- RESET: SUPERVISOR to GFE (70_reset_and_hazards.md R143). -/
  | reset
  /-- STAT_READ a: SUPERVISOR to GFE (43_status_port.md R113). -/
  | statRead (a : Byte)
  /-- STAT_VALUE a, v: GFE to SUPERVISOR (43_status_port.md R114). -/
  | statValue (a : Byte) (v : Word)
  /-- NET_ACCEPT: GFE to NETSTACK (41_framer.md R81). -/
  | netAccept
  /-- NET_READ need: GFE to PEER (41_framer.md R84). -/
  | netRead (need : Byte)
  /-- NET_WRITE byte: GFE to PEER (42_sequencer.md R103). -/
  | netWrite (b : Byte)
  /-- NET_ACCEPTED: NETSTACK to GFE (41_framer.md R82). -/
  | netAccepted
  /-- NET_DATA: PEER to GFE; the empty list is end of stream (41_framer.md R85 to R87). -/
  | netData (d : List Byte)
  /-- NET_READ_ERR: PEER to GFE (41_framer.md R88). -/
  | netReadErr
  /-- NET_WRITE_DONE: PEER to GFE (42_sequencer.md R104). -/
  | netWriteDone
  /-- NET_WRITE_ERR: PEER to GFE (42_sequencer.md R105). -/
  | netWriteErr
  /-- DISP_CLEAR: GFE to DISPLAY (42_sequencer.md R108). -/
  | dispClear
  /-- DISP_WRITE_TEXT: GFE to DISPLAY (42_sequencer.md R109). -/
  | dispWriteText (t : List Byte)
  /-- DISP_LOAD_GLYPH slot, rows: GFE to DISPLAY (42_sequencer.md R96). -/
  | dispLoadGlyph (slot : Byte) (rows : RmGlyph)
  /-- DISP_MOVE_CURSOR col, row: GFE to DISPLAY (42_sequencer.md R97). -/
  | dispMoveCursor (col row : Byte)
  /-- DISP_WRITE_CHAR code: GFE to DISPLAY (42_sequencer.md R98). -/
  | dispWriteChar (code : Byte)
  /-- DISP_OK: DISPLAY to GFE (42_sequencer.md R99, R110). -/
  | dispOk
  /-- DISP_ERR: DISPLAY to GFE (42_sequencer.md R101, R111). -/
  | dispErr
deriving DecidableEq, Repr, Inhabited

/-- The direction mark of a trace line: `>` is emitted by the GFE, `<` is supplied by the environment (30_encoding.md R72). -/
inductive Direction where
  | fromGfe
  | toGfe
deriving DecidableEq, Repr, Inhabited

/-- The six token formats (30_encoding.md R61). -/
inductive Format where
  | f0
  | f1
  | f2
  | f3
  | f4
  | f5
deriving DecidableEq, Repr, Inhabited

/-- The ports of the GFE (30_encoding.md R62, R63). 00_scope.md R2 counts four ports, but names none, and R63 assigns every tag
to one of three: that there are these three is a DESIGN CHOICE (log 22). -/
inductive Port where
  | supervisor
  | net
  | disp
deriving DecidableEq, Repr, Inhabited

/-- The pseudo-tokens of the trace notation (30_encoding.md R73). -/
inductive PseudoToken where
  /-- NET_EOF -/
  | netEof
  /-- NET_RECORD [40 bytes] -/
  | netRecord (d : List Byte)
  /-- STAT_READ STATUS -/
  | statReadStatus
  /-- STAT_READ FRAMES -/
  | statReadFrames
  /-- STAT_READ CONFIG -/
  | statReadConfig
deriving DecidableEq, Repr, Inhabited

end Sys2Proof
end

