-- ==== Sys2Proof/WellFormed.lean ====
section
/-! DEFINITION. Which terms of `Instr` are tokens (30_encoding.md R61), and which of them the GFE can emit (R66). -/

namespace Sys2Proof

/-- A byte list fits format F3, whose count is one byte: n = 0..255 (30_encoding.md R61). -/
def fitsCount (d : List Byte) : Bool := decide (d.length ≤ 255)

/-- A term is a well-formed token: every field fits its format (30_encoding.md R61). -/
def wellFormed : Instr → Bool
  | .reset => true
  | .statRead _ => true
  | .statValue _ _ => true
  | .netAccept => true
  | .netRead _ => true
  | .netWrite _ => true
  | .netAccepted => true
  | .netData d => fitsCount d
  | .netReadErr => true
  | .netWriteDone => true
  | .netWriteErr => true
  | .dispClear => true
  | .dispWriteText t => fitsCount t
  | .dispLoadGlyph _ _ => true
  | .dispMoveCursor _ _ => true
  | .dispWriteChar _ => true
  | .dispOk => true
  | .dispErr => true

/-- The field ranges of the tokens the GFE emits (30_encoding.md R66); true of no environment token. -/
def emittable : Instr → Bool
  | .reset => false
  | .statRead _ => false
  | .statValue _ _ => true
  | .netAccept => true
  | .netRead need => decide (1 ≤ need.toNat ∧ need.toNat ≤ 40)
  | .netWrite b => decide (b = 0x41#8)
  | .netAccepted => false
  | .netData _ => false
  | .netReadErr => false
  | .netWriteDone => false
  | .netWriteErr => false
  | .dispClear => true
  | .dispWriteText t => decide (t.length ≤ 16)
  | .dispLoadGlyph slot rows => decide (slot.toNat ≤ 7) && rows.toList.all (fun d => decide (d.toNat ≤ 0x1F))
  | .dispMoveCursor col row => decide (col.toNat ≤ 15 ∧ row.toNat ≤ 1)
  | .dispWriteChar code => decide (code.toNat ≤ 7)
  | .dispOk => false
  | .dispErr => false

end Sys2Proof
end

