-- ==== Sys2Proof/Decode.lean ====
section
/-! DEFINITION. The token encoding: the tag map (30_encoding.md R62), the length decoding (R68), the field assembly (R64,
R65), the verdicts of a trace decoder (R70), and the encoder written from the same tables. -/

namespace Sys2Proof

/-- One row of the tag map (30_encoding.md R62). -/
structure TagRow where
  tag : Byte
  mnemonic : String
  format : Format
  direction : Direction
deriving DecidableEq, Repr

/-- The tag map of 30_encoding.md R62, row by row. -/
def tagMap : List TagRow :=
  [ ⟨0x01, "RESET", .f0, .toGfe⟩,
    ⟨0x02, "STAT_READ", .f1, .toGfe⟩,
    ⟨0x03, "STAT_VALUE", .f5, .fromGfe⟩,
    ⟨0x10, "NET_ACCEPT", .f0, .fromGfe⟩,
    ⟨0x11, "NET_READ", .f1, .fromGfe⟩,
    ⟨0x12, "NET_WRITE", .f1, .fromGfe⟩,
    ⟨0x18, "NET_ACCEPTED", .f0, .toGfe⟩,
    ⟨0x19, "NET_DATA", .f3, .toGfe⟩,
    ⟨0x1A, "NET_READ_ERR", .f0, .toGfe⟩,
    ⟨0x1B, "NET_WRITE_DONE", .f0, .toGfe⟩,
    ⟨0x1C, "NET_WRITE_ERR", .f0, .toGfe⟩,
    ⟨0x20, "DISP_CLEAR", .f0, .fromGfe⟩,
    ⟨0x21, "DISP_WRITE_TEXT", .f3, .fromGfe⟩,
    ⟨0x22, "DISP_LOAD_GLYPH", .f4, .fromGfe⟩,
    ⟨0x23, "DISP_MOVE_CURSOR", .f2, .fromGfe⟩,
    ⟨0x24, "DISP_WRITE_CHAR", .f1, .fromGfe⟩,
    ⟨0x28, "DISP_OK", .f0, .toGfe⟩,
    ⟨0x29, "DISP_ERR", .f0, .toGfe⟩ ]

/-- The row of a tag; a tag without a row is reserved (30_encoding.md R69). -/
def rowOfTag (tag : Byte) : Option TagRow := tagMap.find? (fun r => r.tag == tag)

/-- Why a position of a trace is refused (30_encoding.md R70). -/
inductive DecodeError where
  /-- UNKNOWN_TAG: a reserved tag. -/
  | unknownTag
  /-- TRUNCATED: the token runs past the end of the trace. -/
  | truncated
deriving DecidableEq, Repr, Inhabited

/-- The length of the token at the head of s, found from its first byte, or its first two for F3 (30_encoding.md R68). -/
def tokenLength : List Byte → Except DecodeError Nat
  | [] => .error .truncated
  | tag :: rest =>
    match rowOfTag tag with
    | none => .error .unknownTag
    | some row =>
      match row.format with
      | .f0 => .ok 1
      | .f1 => .ok 2
      | .f2 => .ok 3
      | .f4 => .ok 10
      | .f5 => .ok 6
      | .f3 =>
        match rest with
        | [] => .error .truncated
        | n :: _ => .ok (2 + n.toNat)

/-- The 32-bit value of four bytes, least significant first (30_encoding.md R64, R65). -/
def littleEndian (v0 v1 v2 v3 : Byte) : Word := v3 ++ v2 ++ v1 ++ v0

/-- The payload of a token of format F0: nothing (30_encoding.md R61). -/
def fieldsF0 (i : Instr) : List Byte → Option Instr
  | [] => some i
  | _ => none

/-- The payload of a token of format F1: a (30_encoding.md R61). -/
def fieldsF1 (mk : Byte → Instr) : List Byte → Option Instr
  | [a] => some (mk a)
  | _ => none

/-- The payload of a token of format F2: a, b (30_encoding.md R61). -/
def fieldsF2 (mk : Byte → Byte → Instr) : List Byte → Option Instr
  | [a, b] => some (mk a b)
  | _ => none

/-- The payload of a token of format F3: the count n, then n bytes (30_encoding.md R61). -/
def fieldsF3 (mk : List Byte → Instr) : List Byte → Option Instr
  | _ :: d => some (mk d)
  | [] => none

/-- The payload of a token of format F4: a, d0, …, d7 (30_encoding.md R61, R64). -/
def fieldsF4 (mk : Byte → RmGlyph → Instr) : List Byte → Option Instr
  | [a, d0, d1, d2, d3, d4, d5, d6, d7] => some (mk a #v[d0, d1, d2, d3, d4, d5, d6, d7])
  | _ => none

/-- The payload of a token of format F5: a, v0, v1, v2, v3 (30_encoding.md R61, R64). -/
def fieldsF5 (mk : Byte → Word → Instr) : List Byte → Option Instr
  | [a, v0, v1, v2, v3] => some (mk a (littleEndian v0 v1 v2 v3))
  | _ => none

/-- The fields of one whole token (30_encoding.md R61, R62, R64). -/
def assemble (tag : Byte) (payload : List Byte) : Option Instr :=
  if tag = 0x01#8 then fieldsF0 .reset payload
  else if tag = 0x02#8 then fieldsF1 .statRead payload
  else if tag = 0x03#8 then fieldsF5 .statValue payload
  else if tag = 0x10#8 then fieldsF0 .netAccept payload
  else if tag = 0x11#8 then fieldsF1 .netRead payload
  else if tag = 0x12#8 then fieldsF1 .netWrite payload
  else if tag = 0x18#8 then fieldsF0 .netAccepted payload
  else if tag = 0x19#8 then fieldsF3 .netData payload
  else if tag = 0x1A#8 then fieldsF0 .netReadErr payload
  else if tag = 0x1B#8 then fieldsF0 .netWriteDone payload
  else if tag = 0x1C#8 then fieldsF0 .netWriteErr payload
  else if tag = 0x20#8 then fieldsF0 .dispClear payload
  else if tag = 0x21#8 then fieldsF3 .dispWriteText payload
  else if tag = 0x22#8 then fieldsF4 .dispLoadGlyph payload
  else if tag = 0x23#8 then fieldsF2 .dispMoveCursor payload
  else if tag = 0x24#8 then fieldsF1 .dispWriteChar payload
  else if tag = 0x28#8 then fieldsF0 .dispOk payload
  else if tag = 0x29#8 then fieldsF0 .dispErr payload
  else none

/-- The first n bytes of s and the rest, or none where s is shorter: the bound p + len ≤ len(s) of 30_encoding.md R68. -/
def takeExactly : Nat → List Byte → Option (List Byte × List Byte)
  | 0, s => some ([], s)
  | _ + 1, [] => none
  | n + 1, b :: s =>
    match takeExactly n s with
    | some (t, rest) => some (b :: t, rest)
    | none => none

/-- The token at the head of a trace and what follows it, or the verdict that refuses the position (30_encoding.md R68,
R70). Total on any bytes; an empty list holds no token and reads as truncated. -/
def decode : List Byte → Except DecodeError (Instr × List Byte)
  | [] => .error .truncated
  | tag :: s =>
    match tokenLength (tag :: s) with
    | .error e => .error e
    | .ok len =>
      match takeExactly (len - 1) s with
      | none => .error .truncated
      | some (payload, rest) =>
        match assemble tag payload with
        | some i => .ok (i, rest)
        | none => .error .unknownTag

/-- `decodeTrace` with a bound on the tokens read and the position of s in the whole trace. -/
def decodeTraceFrom : Nat → Nat → List Byte → List Instr × Option (DecodeError × Nat)
  | 0, _, _ => ([], none)
  | _ + 1, _, [] => ([], none)
  | fuel + 1, p, b :: s =>
    match decode (b :: s) with
    | .error e => ([], some (e, p))
    | .ok (i, rest) =>
      let later := decodeTraceFrom fuel (p + ((b :: s).length - rest.length)) rest
      (i :: later.1, later.2)

/-- A whole trace: its tokens up to the end or the first refused position, and the verdict at that position
(30_encoding.md R68, R70). -/
def decodeTrace (s : List Byte) : List Instr × Option (DecodeError × Nat) := decodeTraceFrom s.length 0 s

/-- The tag of a token (30_encoding.md R62). -/
def Instr.tag : Instr → Byte
  | .reset => 0x01#8
  | .statRead _ => 0x02#8
  | .statValue _ _ => 0x03#8
  | .netAccept => 0x10#8
  | .netRead _ => 0x11#8
  | .netWrite _ => 0x12#8
  | .netAccepted => 0x18#8
  | .netData _ => 0x19#8
  | .netReadErr => 0x1A#8
  | .netWriteDone => 0x1B#8
  | .netWriteErr => 0x1C#8
  | .dispClear => 0x20#8
  | .dispWriteText _ => 0x21#8
  | .dispLoadGlyph _ _ => 0x22#8
  | .dispMoveCursor _ _ => 0x23#8
  | .dispWriteChar _ => 0x24#8
  | .dispOk => 0x28#8
  | .dispErr => 0x29#8

/-- The format of a token (30_encoding.md R62). -/
def Instr.format : Instr → Format
  | .reset => .f0
  | .statRead _ => .f1
  | .statValue _ _ => .f5
  | .netAccept => .f0
  | .netRead _ => .f1
  | .netWrite _ => .f1
  | .netAccepted => .f0
  | .netData _ => .f3
  | .netReadErr => .f0
  | .netWriteDone => .f0
  | .netWriteErr => .f0
  | .dispClear => .f0
  | .dispWriteText _ => .f3
  | .dispLoadGlyph _ _ => .f4
  | .dispMoveCursor _ _ => .f2
  | .dispWriteChar _ => .f1
  | .dispOk => .f0
  | .dispErr => .f0

/-- The direction of a token (30_encoding.md R62). -/
def Instr.direction : Instr → Direction
  | .reset => .toGfe
  | .statRead _ => .toGfe
  | .statValue _ _ => .fromGfe
  | .netAccept => .fromGfe
  | .netRead _ => .fromGfe
  | .netWrite _ => .fromGfe
  | .netAccepted => .toGfe
  | .netData _ => .toGfe
  | .netReadErr => .toGfe
  | .netWriteDone => .toGfe
  | .netWriteErr => .toGfe
  | .dispClear => .fromGfe
  | .dispWriteText _ => .fromGfe
  | .dispLoadGlyph _ _ => .fromGfe
  | .dispMoveCursor _ _ => .fromGfe
  | .dispWriteChar _ => .fromGfe
  | .dispOk => .toGfe
  | .dispErr => .toGfe

/-- The port a token belongs to (30_encoding.md R62, R63). -/
def Instr.port : Instr → Port
  | .reset => .supervisor
  | .statRead _ => .supervisor
  | .statValue _ _ => .supervisor
  | .netAccept => .net
  | .netRead _ => .net
  | .netWrite _ => .net
  | .netAccepted => .net
  | .netData _ => .net
  | .netReadErr => .net
  | .netWriteDone => .net
  | .netWriteErr => .net
  | .dispClear => .disp
  | .dispWriteText _ => .disp
  | .dispLoadGlyph _ _ => .disp
  | .dispMoveCursor _ _ => .disp
  | .dispWriteChar _ => .disp
  | .dispOk => .disp
  | .dispErr => .disp

/-- The payload of a token, after its tag (30_encoding.md R61, R64, R65). -/
def Instr.payload : Instr → List Byte
  | .reset => []
  | .statRead a => [a]
  | .statValue a v => [a, v.extractLsb' 0 8, v.extractLsb' 8 8, v.extractLsb' 16 8, v.extractLsb' 24 8]
  | .netAccept => []
  | .netRead need => [need]
  | .netWrite b => [b]
  | .netAccepted => []
  | .netData d => BitVec.ofNat 8 d.length :: d
  | .netReadErr => []
  | .netWriteDone => []
  | .netWriteErr => []
  | .dispClear => []
  | .dispWriteText t => BitVec.ofNat 8 t.length :: t
  | .dispLoadGlyph slot rows => slot :: rows.toList
  | .dispMoveCursor col row => [col, row]
  | .dispWriteChar code => [code]
  | .dispOk => []
  | .dispErr => []

/-- The bytes of a well-formed token (30_encoding.md R61). -/
def encode (i : Instr) : List Byte := i.tag :: i.payload

/-- The token a pseudo-token stands for; NET_RECORD is refused unless it holds exactly 40 bytes (30_encoding.md R73). -/
def PseudoToken.expand : PseudoToken → Option Instr
  | .netEof => some (.netData [])
  | .netRecord d => if d.length = 40 then some (.netData d) else none
  | .statReadStatus => some (.statRead 0x00#8)
  | .statReadFrames => some (.statRead 0x01#8)
  | .statReadConfig => some (.statRead 0x02#8)

/-- The bytes of the number w, nbits wide, first byte from its lowest bits, with zeros after it up to the longest token
(2 + 255 bytes, 30_encoding.md R61): a token as spec/opcode_table.json numbers its bits. -/
def tableBytes (nbits w : Nat) : List Byte :=
  (List.range (nbits / 8)).map (fun k => BitVec.ofNat 8 (w >>> (8 * k))) ++ List.replicate 257 0#8

/-- The token the decoder reads from the bits w. -/
def decodeTableWord (nbits w : Nat) : Option Instr :=
  match decode (tableBytes nbits w) with
  | .ok (i, _) => some i
  | .error _ => none

end Sys2Proof
end

