-- ==== Sys2Proof/Config.lean ====
section
/-! DEFINITION. The configuration parameters (00_scope.md R7) and the free values: what the spec leaves open, as constants
without a body. -/

namespace Sys2Proof

/-- MODE, one bit: 0 = DELAY_PACED, 1 = ACK_PACED (00_scope.md R7). -/
inductive Pacing where
  | delayPaced
  | ackPaced
deriving DecidableEq, Repr, Inhabited

/-- MODE as the bit that CONFIG shows (10_state.md R32). -/
def Pacing.bit : Pacing → BitVec 1
  | .delayPaced => 0#1
  | .ackPaced => 1#1

/-- The configuration structure (00_scope.md R7). -/
structure Configuration where
  mode : Pacing
  baseCol : BitVec 4
  diagText : List Byte
  port : BitVec 16
deriving DecidableEq, Repr, Inhabited

/-- A legal configuration has BASE_COL in 0..12 (00_scope.md R7). -/
def Configuration.legal (c : Configuration) : Bool := decide (c.baseCol ≤ 12#4)

/-- MODE of the machine as it powers on: OPEN, no default (92_eei_decisions.md D5; log 5). -/
opaque Config.mode : Pacing

/-- DIAG_TEXT of the machine as it powers on: OPEN, no default (92_eei_decisions.md D15; log 5). -/
opaque Config.diagText : List Byte

/-- The configuration inputs at power-on: the defaults of 00_scope.md R7 where it gives one (log 5, log 6). -/
def Config.powerOn : Configuration :=
  { mode := Config.mode, baseCol := 0#4, diagText := Config.diagText, port := defaultPort }

/-- RXBUF after the n-th draw: any value (10_state.md R35, 70_reset_and_hazards.md R143; log 3). -/
opaque Config.freeRxbuf : Nat → Vector Byte 40

/-- TBUF after the n-th draw: any value (10_state.md R35, 70_reset_and_hazards.md R143; log 3). -/
opaque Config.freeTbuf : Nat → RmGlyph

/-- The DISPLAY after the n-th draw: any value of every field (44_environment.md R123; log 7, log 8). -/
opaque Config.freeDisplay : Nat → Display

end Sys2Proof
end

