-- ==== Sys2Proof/Machine/State.lean ====
section
/-! DEFINITION. The state of the machine: the GFE's tuple S (10_state.md R15), its configuration, the environment agents'
state (10_state.md R34), the trace, and the reasons a step can stop. -/

namespace Sys2Proof.Machine

/-- STATE, the sequencer's phase: exactly six values (10_state.md R17). -/
inductive Phase where
  | listen
  | accum
  | render
  | ack
  | diag
  | fault
deriving DecidableEq, Repr, Inhabited

/-- CAUSE, why the first fault was taken: exactly eight values (60_exceptions.md R128). -/
inductive Cause where
  | none
  | eofAtBoundary
  | eofMidFrame
  | rxOverrun
  | netReadError
  | ackWriteError
  | displayError
  | protocolViolation
deriving DecidableEq, Repr, Inhabited

/-- The GFE state S = (STATE, STEP, DSTEP, OFFSET, FAULT, CAUSE, FRAMES, RXBUF, TBUF) (10_state.md R15). -/
structure Gfe where
  /-- STATE (R17) -/
  phase : Phase
  /-- STEP, 0..23: display commands of the current frame completed (R18) -/
  step : BitVec 5
  /-- DSTEP, 0..3: diagnostic commands completed (R19) -/
  dstep : BitVec 2
  /-- OFFSET, 0..40: bytes of the current record held (R20) -/
  offset : BitVec 6
  /-- FAULT, the latched fault flag (R22) -/
  fault : Bool
  /-- CAUSE (R23) -/
  cause : Cause
  /-- FRAMES, completed frames modulo 2^32 (R25) -/
  frames : BitVec 32
  /-- RXBUF, the receive buffer (R26) -/
  rxbuf : Vector Byte 40
  /-- TBUF, the transpose output buffer (R27) -/
  tbuf : RmGlyph
deriving DecidableEq, Repr, Inhabited

/-- The PEER's side of the connection (10_state.md R34 (a), 44_environment.md R118, R119; log 12). -/
structure Peer where
  /-- bytes the PEER has sent and the GFE has not read, oldest first -/
  pending : List Byte
  /-- the PEER has closed the connection -/
  closed : Bool
  /-- bytes the GFE has written and the PEER has not read, oldest first -/
  acks : List Byte
deriving DecidableEq, Repr, Inhabited

/-- A connection on which nothing has been sent (log 12). -/
def Peer.fresh : Peer := { pending := [], closed := false, acks := [] }

/-- What the GFE has just put on a port and no trace line has shown yet. The request itself is not stored: it is computed
from the state (42_sequencer.md R91; log 9). -/
inductive Due where
  | nothing
  /-- the outstanding request -/
  | request
  /-- the STAT_VALUE that answers a STAT_READ of this address (43_status_port.md R114) -/
  | status (a : Byte)
deriving DecidableEq, Repr, Inhabited

/-- The whole machine. -/
structure State where
  /-- the GFE tuple (10_state.md R15) -/
  gfe : Gfe
  /-- the configuration sampled at reset (70_reset_and_hazards.md R144) -/
  cfg : Configuration
  /-- the configuration inputs that RESET samples (70_reset_and_hazards.md R144; log 6) -/
  cfgIn : Configuration
  /-- the DISPLAY agent (10_state.md R34 (b), (c); 44_environment.md R123) -/
  display : Display
  /-- the PEER's connection (10_state.md R34 (a)) -/
  peer : Peer
  /-- the bytes of the trace still to run (log 1) -/
  trace : List Byte
  /-- what the last step put on a port, not yet shown by a trace line (log 9, log 10) -/
  due : Due
  /-- the tokens the GFE has emitted in this run, oldest first (44_environment.md R127; log 11) -/
  emitted : List Instr
  /-- how many free values have been drawn (log 4) -/
  free : Nat
deriving DecidableEq, Repr, Inhabited

/-- The machine stops without a next state. Raised by step alone, never by a meaning; both are safe (log 16). -/
inductive Fault where
  /-- held: no token is left and a request is outstanding; the GFE waits without bound (00_scope.md R14, 44_environment.md
  R127). Raised by step. Safe: a stuck state, as 93_implementation_defined.md U13 says. -/
  | held
  /-- finished: no token is left and no request is outstanding (44_environment.md R127). Raised by step. Safe. -/
  | finished
deriving DecidableEq, Repr, Inhabited

/-- The machine has no next state for what the trace holds. -/
inductive Refusal where
  /-- no meaning for the instruction. Raised by exec for an instruction without a meaning; none is left. Safe. -/
  | notModelled (mnemonic : String)
  /-- UNKNOWN_TAG: a reserved tag (30_encoding.md R69, R70). Raised by step. Safe: the spec refuses it. -/
  | unknownTag
  /-- TRUNCATED: a token that runs past the end of the trace (30_encoding.md R70). Raised by step. Safe: the spec refuses it. -/
  | truncated
  /-- RESET with BASE_COL above 12 (70_reset_and_hazards.md R144). Raised by the meaning of RESET. Safe: the spec refuses it. -/
  | illegalConfiguration
  /-- a trace line shows a GFE token that the GFE has not just emitted (30_encoding.md R66; log 9). Raised by the meanings
  of the GFE's own tokens. Safe: such a trace is not a trace of the GFE. -/
  | notEmitted
deriving DecidableEq, Repr, Inhabited

/-- The outcome of a step or a meaning. -/
abbrev Result := Host.Outcome State Fault Refusal

/-- The tuple S after reset, with its two unspecified buffers given (10_state.md R35). -/
def Gfe.afterReset (rxbuf : Vector Byte 40) (tbuf : RmGlyph) : Gfe :=
  { phase := .listen, step := 0#5, dstep := 0#2, offset := 0#6, fault := false, cause := .none, frames := 0#32,
    rxbuf := rxbuf, tbuf := tbuf }

/-- The machine right after power-on, which is the same event as RESET (10_state.md R35, 70_reset_and_hazards.md R143):
RXBUF and TBUF zero (log 2), the DISPLAY any value (log 7), an empty trace, NET_ACCEPT on its port. -/
def State.reset : State :=
  { gfe := Gfe.afterReset (Vector.replicate 40 0#8) (Vector.replicate 8 0#8),
    cfg := Config.powerOn,
    cfgIn := Config.powerOn,
    display := Config.freeDisplay 0,
    peer := Peer.fresh,
    trace := [],
    due := .request,
    emitted := [.netAccept],
    free := 1 }

end Sys2Proof.Machine
end

