-- ==== Sys2Proof/Machine/Transposer.lean ====
section
/-! DEFINITION. TRANSPOSE, the internal operation of the GFE (40_transposer.md R74 to R77), and the reference functions the
spec states its laws with: COMPRESS (R78) and UNTRANSPOSE (R80). -/

namespace Sys2Proof.Machine

/-- `bit(v, i)` as a truth value (00_scope.md R9). -/
def bit (v : Byte) (i : Nat) : Bool := v.getLsbD i

/-- A byte with the listed bits set and every other bit 0. -/
def byteOfBits (bits : List (Bool × Nat)) : Byte :=
  bits.foldl (fun acc p => if p.1 then acc ||| (1#8 <<< p.2) else acc) 0#8

/-- Row r of TRANSPOSE(x): for each column c, bit 4 - c is bit 7 - r of x[c] (40_transposer.md R74). -/
def transposeRow (x : CmGlyph) (r : Nat) : Byte :=
  byteOfBits ((List.finRange 5).map (fun c => (bit x[c] (7 - r), 4 - c.val)))

/-- TRANSPOSE: column-major glyph to row-major glyph (40_transposer.md R74). -/
def transpose (x : CmGlyph) : RmGlyph := Vector.ofFn (fun r => transposeRow x r.val)

/-- A PixelBlock: pixel (r, c), row 0 at the top, column 0 at the left (30_encoding.md R55). Reference only. -/
abbrev PixelBlock := Vector (Vector Bool 5) 8

/-- COMPRESS (40_transposer.md R78). Reference only: the GFE does not contain it. -/
def compress (p : PixelBlock) : CmGlyph :=
  Vector.ofFn (fun c => byteOfBits ((List.finRange 8).map (fun r => (p[r][c], 7 - r.val))))

/-- UNTRANSPOSE (40_transposer.md R80). Reference only: the GFE does not contain it. -/
def untranspose (y : RmGlyph) : CmGlyph :=
  Vector.ofFn (fun c => byteOfBits ((List.finRange 8).map (fun r => (bit y[r] (4 - c.val), 7 - r.val))))

end Sys2Proof.Machine
end

