-- ==== Sys2Proof/Machine/Operands.lean ====
section
/-! DEFINITION. The operands of the GFE's requests, and the request itself as a pure function of the state (42_sequencer.md
R91): the byte count asked for, the frame's 24 commands, the diagnostic's 3. -/

namespace Sys2Proof.Machine

/-- `MemRead(b, a, n)` = b[a..a+n-1] (00_scope.md R11). A byte outside b reads 0; no rule reads one (log 13). -/
def memRead {m : Nat} (b : Vector Byte m) (a n : Nat) : Vector Byte n :=
  Vector.ofFn (fun i => b[a + i.val]?.getD 0#8)

/-- `MemWrite(b, a, n, v)`: the bytes of v at b[a], b[a+1], … in order (00_scope.md R11). -/
def memWrite {m : Nat} (b : Vector Byte m) (a : Nat) (v : List Byte) : Vector Byte m :=
  Vector.ofFn (fun i => if a ≤ i.val ∧ i.val < a + v.length then v[i.val - a]?.getD 0#8 else b[i])

/-- Glyph g of the record in RXBUF: bytes 5g..5g+4 (40_transposer.md R76, 20_memory.md R37). -/
def glyphAt (rxbuf : Vector Byte 40) (g : Nat) : CmGlyph := memRead rxbuf (5 * g) 5

/-- `need` = 40 - OFFSET, the bytes still missing (41_framer.md R84). -/
def Gfe.need (g : Gfe) : Nat := 40 - g.offset.toNat

/-- The column of character code k: BASE_COL + k mod 4 (42_sequencer.md R93). -/
def gridCol (c : Configuration) (k : Nat) : Byte := BitVec.ofNat 8 (c.baseCol.toNat + k % 4)

/-- The row of character code k: k // 4 (42_sequencer.md R93). -/
def gridRow (k : Nat) : Byte := BitVec.ofNat 8 (k / 4)

/-- Command number s of a frame: 8 loads, then 8 pairs of a cursor move and a character write (42_sequencer.md R94). -/
def renderCmd (c : Configuration) (s : Nat) (tbuf : RmGlyph) : Instr :=
  if s ≤ 7 then .dispLoadGlyph (BitVec.ofNat 8 s) tbuf
  else if (s - 8) % 2 = 0 then .dispMoveCursor (gridCol c ((s - 8) / 2)) (gridRow ((s - 8) / 2))
  else .dispWriteChar (BitVec.ofNat 8 ((s - 8) / 2))

/-- DIAG_TEXT cut to the display's 16 columns (42_sequencer.md R107). -/
def diagLine (c : Configuration) : List Byte := c.diagText.take displayCols

/-- Diagnostic command number d (42_sequencer.md R107). The rule gives three; d = 3 is never held in DIAG (log 13). -/
def diagCmd (c : Configuration) (d : Nat) : Option Instr :=
  if d = 0 then some .dispClear
  else if d = 1 then some (.dispMoveCursor 0#8 0#8)
  else if d = 2 then some (.dispWriteText (diagLine c))
  else none

/-- The outstanding request, a pure function of the state (42_sequencer.md R91). -/
def request (c : Configuration) (g : Gfe) : Option Instr :=
  match g.phase with
  | .listen => some .netAccept
  | .accum => some (.netRead (BitVec.ofNat 8 g.need))
  | .render => some (renderCmd c g.step.toNat g.tbuf)
  | .ack => some (.netWrite ackChar)
  | .diag => diagCmd c g.dstep.toNat
  | .fault => none

/-- The outstanding request of the machine. -/
def State.request (s : State) : Option Instr := Machine.request s.cfg s.gfe

end Sys2Proof.Machine
end

