-- ==== Sys2Proof/Machine/Environment.lean ====
section
/-! DEFINITION. The environment agents: the reference display model (44_environment.md R123), what the outside world does
without a token (R118, R119, R144), the far program of the PEER (R120), and the liberties and duties of R126. -/

namespace Sys2Proof

/-- Every cell replaced by a function of its row, column and old content. -/
def Display.mapCells (d : Display) (f : Nat → Nat → CellContent → CellContent) : Display :=
  { d with cell := Vector.ofFn (fun r => Vector.ofFn (fun c => f r.val c.val d.cell[r][c])) }

/-- The content of cell[row][col]; off the 16 × 2 display it reads BLANK (log 13). -/
def Display.cellAt (d : Display) (row col : Nat) : CellContent :=
  match d.cell[row]? with
  | some cells => cells[col]?.getD .blank
  | none => .blank

/-- DISP_LOAD_GLYPH(s, b): slot[s] <- b (44_environment.md R123). -/
def Display.loadGlyph (d : Display) (slot : Byte) (rows : RmGlyph) : Display :=
  { d with slot := Vector.ofFn (fun k => if k.val = slot.toNat then rows else d.slot[k]) }

/-- DISP_MOVE_CURSOR(c, r): cursor <- (c, r) (44_environment.md R123). -/
def Display.moveCursor (d : Display) (col row : Byte) : Display := { d with cursor := .pos col row }

/-- DISP_WRITE_CHAR(k): the cell at the cursor, if it is known, shows code k; then cursor <- UNSPEC (44_environment.md R123). -/
def Display.writeChar (d : Display) (code : Byte) : Display :=
  match d.cursor with
  | .unspec => { d with cursor := .unspec }
  | .pos col row =>
    { d.mapCells (fun r c old => if r = row.toNat ∧ c = col.toNat then .code code else old) with cursor := .unspec }

/-- DISP_CLEAR: every cell <- BLANK; cursor <- UNSPEC (44_environment.md R123). -/
def Display.clear (d : Display) : Display := { d.mapCells (fun _ _ _ => .blank) with cursor := .unspec }

/-- DISP_WRITE_TEXT(T): cell[r][c+i] <- T[i] up to column 15, if the cursor is known; then cursor <- UNSPEC
(44_environment.md R123). -/
def Display.writeText (d : Display) (t : List Byte) : Display :=
  match d.cursor with
  | .unspec => { d with cursor := .unspec }
  | .pos col row =>
    { d.mapCells (fun r c old =>
        if r = row.toNat ∧ col.toNat ≤ c ∧ c < col.toNat + t.length then .text (t[c - col.toNat]?.getD 0#8) else old) with
      cursor := .unspec }

/-- The effect of a command that is answered DISP_OK (44_environment.md R123). A token of another port has none; neither
has a field outside the ranges of 30_encoding.md R66, which the GFE never emits (log 13). -/
def Display.apply (d : Display) : Instr → Display
  | .reset => d
  | .statRead _ => d
  | .statValue _ _ => d
  | .netAccept => d
  | .netRead _ => d
  | .netWrite _ => d
  | .netAccepted => d
  | .netData _ => d
  | .netReadErr => d
  | .netWriteDone => d
  | .netWriteErr => d
  | .dispClear => d.clear
  | .dispWriteText t => d.writeText t
  | .dispLoadGlyph slot rows => d.loadGlyph slot rows
  | .dispMoveCursor col row => d.moveCursor col row
  | .dispWriteChar code => d.writeChar code
  | .dispOk => d
  | .dispErr => d

end Sys2Proof

namespace Sys2Proof.Machine

/-- The DISPLAY after it has answered DISP_OK to the outstanding request. -/
def State.displayAfterOk (s : State) : Display :=
  match s.request with
  | some q => s.display.apply q
  | none => s.display

/-- A display command is outstanding: the request is on the DISP port. -/
def State.displayCommandOutstanding (s : State) : Bool :=
  match s.request with
  | some q => decide (q.port = .disp)
  | none => false

/-- The PEER sends bytes: they wait in the transport (44_environment.md R118). Not a token of the GFE (log 12). The spec
does not say what a send after the PEER's own close does: that it is dropped, the state unchanged, is a DESIGN CHOICE
(log 20). -/
def State.peerSend (s : State) (d : List Byte) : State :=
  if s.peer.closed then s else { s with peer := { s.peer with pending := s.peer.pending ++ d } }

/-- The PEER closes the connection (44_environment.md R118 (b)). Not a token of the GFE (log 12). -/
def State.peerClose (s : State) : State := { s with peer := { s.peer with closed := true } }

/-- The PEER reads the oldest byte of the stream bound to it (44_environment.md R119). Not a token of the GFE (log 12). -/
def State.peerReadAck (s : State) : Option Byte × State :=
  match s.peer.acks with
  | [] => (none, s)
  | b :: rest => (some b, { s with peer := { s.peer with acks := rest } })

/-- The configuration inputs are driven to c; they act at the next RESET only (70_reset_and_hazards.md R144; log 6). -/
def State.driveConfig (s : State) (c : Configuration) : State := { s with cfgIn := c }

/-- The far program, StreamTransmitter (44_environment.md R120): the rest of its file (30_encoding.md R60), its pacing,
whether it waits for an acknowledgment, and whether it has ended. Environment only: no part of State (log 19). -/
structure Transmitter where
  source : List Byte
  pacing : Pacing
  waiting : Bool
  done : Bool
deriving DecidableEq, Repr, Inhabited

/-- The transmitter ends and closes the connection (44_environment.md R120). -/
def Transmitter.stop (t : Transmitter) (s : State) : Transmitter × State := ({ t with done := true }, s.peerClose)

/-- The transmitter sends its next record of 40 bytes, or the shorter tail of a file that is no multiple of 40
(44_environment.md R121); at the end of the file it ends (R120). R121 has the tail followed by a close and does not say
whether an ack-paced transmitter first waits for an acknowledgment of the tail: that it waits as after any record is a
DESIGN CHOICE (log 21). -/
def Transmitter.sendRecord (t : Transmitter) (s : State) : Transmitter × State :=
  match t.source with
  | [] => t.stop s
  | b :: rest =>
    ({ t with source := (b :: rest).drop recordBytes, waiting := decide (t.pacing = .ackPaced) },
      s.peerSend ((b :: rest).take recordBytes))

/-- One action of the transmitter (44_environment.md R120). In ack-paced mode it waits for one byte: 'A' lets it go on, any
other byte or a timeout ends it. `timeout` says that the bounded wait has run out (log 19). R120 leaves two points open.
Whether the wait can run out while a byte already stands in the stream bound to the PEER: that the byte is taken and
`timeout` then disregarded is a DESIGN CHOICE (log 24). What the transmitter does once a RESET has dropped its connection:
that it goes on with the new one, as it stood, is a DESIGN CHOICE (log 23). -/
def Transmitter.act (t : Transmitter) (timeout : Bool) (s : State) : Transmitter × State :=
  if t.done then (t, s)
  else if t.waiting then
    match s.peerReadAck with
    | (some b, s') => if b = ackChar then ({ t with waiting := false }, s') else t.stop s'
    | (none, _) => if timeout then t.stop s else (t, s)
  else t.sendRecord s

/-- What the environment may supply in a state without breaking a duty (44_environment.md R118, R119, R124 to R126). The
GFE's own tokens are not the environment's to supply. -/
def environmentMay (i : Instr) (s : State) : Bool :=
  match i with
  | .reset => s.cfgIn.legal
  | .statRead _ => true
  | .statValue _ _ => false
  | .netAccept => false
  | .netRead _ => false
  | .netWrite _ => false
  | .netAccepted => decide (s.request = some .netAccept)
  | .netData d =>
    match s.request with
    | some (.netRead need) =>
      if d = [] then s.peer.closed && decide (s.peer.pending = [])
      else decide (d.length ≤ need.toNat ∧ d = s.peer.pending.take d.length)
    | _ => false
  | .netReadErr =>
    match s.request with
    | some (.netRead _) => true
    | _ => false
  | .netWriteDone => decide (s.request = some (.netWrite ackChar))
  | .netWriteErr => decide (s.request = some (.netWrite ackChar))
  | .dispClear => false
  | .dispWriteText _ => false
  | .dispLoadGlyph _ _ => false
  | .dispMoveCursor _ _ => false
  | .dispWriteChar _ => false
  | .dispOk => s.displayCommandOutstanding
  | .dispErr => s.displayCommandOutstanding

end Sys2Proof.Machine
end

