-- ==== Sys2Proof/Machine/Flags.lean ====
section
/-! DEFINITION. The codes of STATE and CAUSE, the one flag FAULT (10_state.md R22, R24) and the status registers that show
them (10_state.md R30 to R33). -/

namespace Sys2Proof.Machine

/-- The 3-bit code of STATE (10_state.md R17). -/
def Phase.code : Phase → BitVec 3
  | .listen => 0#3
  | .accum => 1#3
  | .render => 2#3
  | .ack => 3#3
  | .diag => 4#3
  | .fault => 5#3

/-- The 4-bit code of CAUSE (60_exceptions.md R128). -/
def Cause.code : Cause → BitVec 4
  | .none => 0#4
  | .eofAtBoundary => 1#4
  | .eofMidFrame => 2#4
  | .rxOverrun => 3#4
  | .netReadError => 4#4
  | .ackWriteError => 5#4
  | .displayError => 6#4
  | .protocolViolation => 7#4

/-- FAULT as one bit (10_state.md R22). -/
def Gfe.faultBit (g : Gfe) : BitVec 1 := if g.fault then 1#1 else 0#1

/-- STATUS: {DSTEP, STEP, 00, OFFSET, CAUSE, FAULT, STATE}, zero-extended (10_state.md R30). -/
def statusWord (g : Gfe) : Word :=
  (g.dstep ++ g.step ++ 0#2 ++ g.offset ++ g.cause.code ++ g.faultBit ++ g.phase.code : BitVec 23).zeroExtend 32

/-- CONFIG: {BASE_COL, 000, MODE}, zero-extended (10_state.md R32). -/
def configWord (c : Configuration) : Word := (c.baseCol ++ 0#3 ++ c.mode.bit : BitVec 8).zeroExtend 32

/-- The value of a status address; reserved addresses read 0 (10_state.md R33, 43_status_port.md R114). -/
def statValue (a : Byte) (c : Configuration) (g : Gfe) : Word :=
  if a = 0x00#8 then statusWord g
  else if a = 0x01#8 then g.frames
  else if a = 0x02#8 then configWord c
  else 0#32

end Sys2Proof.Machine
end

