-- ==== Sys2Proof/Machine/Ops.lean ====
section
/-! DEFINITION. The named operations every meaning is made of: issuing a request, the fault latch (60_exceptions.md R130)
and the two ways a response fails to act (R131, R132), entering ACCUM (10_state.md R21), drawing free values, showing a
token in a trace, and fetching the next token. -/

namespace Sys2Proof.Machine

/-- The machine with another tuple S. -/
def State.withGfe (s : State) (g : Gfe) : State := { s with gfe := g }

/-- The machine with another DISPLAY. -/
def State.withDisplay (s : State) (d : Display) : State := { s with display := d }

/-- The machine with another PEER. -/
def State.withPeer (s : State) (p : Peer) : State := { s with peer := p }

/-- The machine with another rest of the trace. -/
def State.withTrace (s : State) (t : List Byte) : State := { s with trace := t }

/-- The GFE issues its next request, if it has one: it stands on its port and in the log (00_scope.md R13; log 9, log 11). -/
def State.issue (s : State) : State :=
  { s with
    due := if s.request.isSome then .request else .nothing
    emitted := s.emitted ++ s.request.toList }

/-- The DISPLAY is left in an unspecified state (44_environment.md R123): the next draw (log 7). -/
def State.displayUnspecified (s : State) : State :=
  { s with display := Config.freeDisplay s.free, free := s.free + 1 }

/-- A display command that will never be answered leaves the DISPLAY unspecified (70_reset_and_hazards.md R145; log 8). -/
def State.abandonCommand (s : State) : State :=
  if s.displayCommandOutstanding then s.displayUnspecified else s

/-- The fault latch `raise Fault(c)`, this machine's one way of taking an exception (60_exceptions.md R130). There is no
return from it but RESET (R133). -/
def raiseFault (c : Cause) (g : Gfe) : Gfe :=
  if g.fault then g
  else if c = .displayError then { g with fault := true, cause := c, phase := .diag, dstep := 0#2 }
  else { g with fault := true, cause := c, phase := .fault }

/-- A response raises a fault and has no other effect on S; then the next request, if there is one, is issued
(60_exceptions.md R130). -/
def takeFault (c : Cause) (s : State) : Result := .next (s.withGfe (raiseFault c s.gfe)).issue

/-- A response that does not answer the outstanding request, while FAULT = 0 (60_exceptions.md R131). -/
def violation (s : State) : Result := takeFault .protocolViolation s.abandonCommand

/-- A response while FAULT = 1, but for the two of DIAG: the state is unchanged (60_exceptions.md R132; log 15). -/
def ignored (s : State) : Result := .next s

/-- Entering ACCUM: OFFSET and STEP are 0 (10_state.md R21). -/
def enterAccum (g : Gfe) : Gfe := { g with phase := .accum, offset := 0#6, step := 0#5 }

/-- A trace line shows the request q: it does so once, right after the GFE has issued it (30_encoding.md R66, R72; log 9). -/
def showRequest (q : Instr) (s : State) : Result :=
  if s.due = .request ∧ s.request = some q then .next { s with due := .nothing } else .refused .notEmitted

/-- What the next position of the trace gives. -/
inductive Fetched where
  | token (i : Instr) (rest : List Byte)
  | stop (r : Fault)
  | refuse (r : Refusal)
deriving DecidableEq, Repr

/-- The next token of the trace; without one the GFE is held or finished (00_scope.md R14, 44_environment.md R127), and a
refused position ends the trace (30_encoding.md R70). -/
def fetch (s : State) : Fetched :=
  match s.trace with
  | [] => .stop (if s.request.isSome then .held else .finished)
  | b :: rest =>
    match decode (b :: rest) with
    | .ok (i, after) => .token i after
    | .error .unknownTag => .refuse .unknownTag
    | .error .truncated => .refuse .truncated

end Sys2Proof.Machine
end

