-- ==== Sys2Proof/Machine/Framer.lean ====
section
/-! DEFINITION. The frame accumulator: NET_ACCEPT, NET_ACCEPTED, NET_READ, NET_DATA, NET_READ_ERR (41_framer.md R81 to
R89). -/

namespace Sys2Proof.Machine

/-- NET_ACCEPT: the request of LISTEN (41_framer.md R81). -/
def execNetAccept (s : State) : Result := showRequest .netAccept s

/-- NET_READ need: the request of ACCUM (41_framer.md R84). -/
def execNetRead (need : Byte) (s : State) : Result := showRequest (.netRead need) s

/-- NET_ACCEPTED: LISTEN goes to ACCUM (41_framer.md R82, 10_state.md R21). -/
def execNetAccepted (s : State) : Result :=
  if s.gfe.fault then ignored s
  else
    match s.gfe.phase with
    | .listen => .next (s.withGfe (enterAccum s.gfe)).issue
    | .accum => violation s
    | .render => violation s
    | .ack => violation s
    | .diag => violation s
    | .fault => violation s

/-- S after a non-empty read of at most `need` bytes: they land at OFFSET in order; the 40th completes the record and
glyph 0 is transposed (41_framer.md R85, 42_sequencer.md R95 (a)). -/
def acceptBytes (d : List Byte) (g : Gfe) : Gfe :=
  let rxbuf := memWrite g.rxbuf g.offset.toNat d
  let offset := g.offset + BitVec.ofNat 6 d.length
  if offset = 40#6 then
    { g with rxbuf := rxbuf, offset := offset, phase := .render, step := 0#5, tbuf := transpose (glyphAt rxbuf 0) }
  else { g with rxbuf := rxbuf, offset := offset }

/-- NET_DATA in ACCUM: end of stream, a non-empty read, or an overrun, in that order (41_framer.md R86, R85, R87). -/
def receive (d : List Byte) (s : State) : Result :=
  if d.length = 0 then takeFault (if s.gfe.offset = 0#6 then .eofAtBoundary else .eofMidFrame) s
  else if d.length ≤ s.gfe.need then
    .next ((s.withGfe (acceptBytes d s.gfe)).withPeer
      { s.peer with pending := s.peer.pending.drop d.length }).issue
  else takeFault .rxOverrun s

/-- NET_DATA: the answer to NET_READ (41_framer.md R85 to R87, R89). -/
def execNetData (d : List Byte) (s : State) : Result :=
  if s.gfe.fault then ignored s
  else
    match s.gfe.phase with
    | .listen => violation s
    | .accum => receive d s
    | .render => violation s
    | .ack => violation s
    | .diag => violation s
    | .fault => violation s

/-- NET_READ_ERR: the connection failed (41_framer.md R88). -/
def execNetReadErr (s : State) : Result :=
  if s.gfe.fault then ignored s
  else
    match s.gfe.phase with
    | .listen => violation s
    | .accum => takeFault .netReadError s
    | .render => violation s
    | .ack => violation s
    | .diag => violation s
    | .fault => violation s

end Sys2Proof.Machine
end

