-- ==== Sys2Proof/Machine/Reset.lean ====
section
/-! DEFINITION. RESET (70_reset_and_hazards.md R143 to R145). -/

namespace Sys2Proof.Machine

/-- The state a RESET leaves: S as 10_state.md R35 says with RXBUF and TBUF any value (log 3), the configuration sampled
(70_reset_and_hazards.md R144), a new connection (R133, R143; log 12), the display untouched but for an abandoned command
(R145; log 8), and a new run (44_environment.md R127; log 11). -/
def State.restarted (s : State) : State :=
  { s.abandonCommand with
    gfe := Gfe.afterReset (Config.freeRxbuf s.free) (Config.freeTbuf s.free)
    cfg := s.cfgIn
    peer := Peer.fresh
    emitted := []
    free := s.free + 1 }

/-- RESET, in every state. An illegal configuration is refused (70_reset_and_hazards.md R144); else the GFE restarts and
issues NET_ACCEPT (R143). -/
def execReset (s : State) : Result :=
  if s.cfgIn.legal then .next s.restarted.issue else .refused .illegalConfiguration

end Sys2Proof.Machine
end

