-- ==== Sys2Proof/Machine/Sequencer.lean ====
section
/-! DEFINITION. The display sequencer and the acknowledgment: the DISP_* requests and answers, NET_WRITE, NET_WRITE_DONE,
NET_WRITE_ERR (42_sequencer.md R93 to R112). -/

namespace Sys2Proof.Machine

/-- DISP_LOAD_GLYPH: commands 0..7 of a frame (42_sequencer.md R96). -/
def execDispLoadGlyph (slot : Byte) (rows : RmGlyph) (s : State) : Result := showRequest (.dispLoadGlyph slot rows) s

/-- DISP_MOVE_CURSOR: commands 8, 10, …, 22 of a frame and the second of the diagnostic (42_sequencer.md R97). -/
def execDispMoveCursor (col row : Byte) (s : State) : Result := showRequest (.dispMoveCursor col row) s

/-- DISP_WRITE_CHAR: commands 9, 11, …, 23 of a frame (42_sequencer.md R98). -/
def execDispWriteChar (code : Byte) (s : State) : Result := showRequest (.dispWriteChar code) s

/-- DISP_CLEAR: the first command of the diagnostic (42_sequencer.md R108). -/
def execDispClear (s : State) : Result := showRequest .dispClear s

/-- DISP_WRITE_TEXT: the third command of the diagnostic (42_sequencer.md R109). -/
def execDispWriteText (t : List Byte) (s : State) : Result := showRequest (.dispWriteText t) s

/-- NET_WRITE: the acknowledgment, the request of ACK (42_sequencer.md R103). -/
def execNetWrite (b : Byte) (s : State) : Result := showRequest (.netWrite b) s

/-- Render completion: the frame is counted, then ACK or ACCUM by MODE (42_sequencer.md R100). -/
def renderDone (c : Configuration) (g : Gfe) : Gfe :=
  let counted := { g with frames := g.frames + 1#32, step := 0#5 }
  match c.mode with
  | .ackPaced => { counted with phase := .ack }
  | .delayPaced => enterAccum counted

/-- S after a completed display command of a frame (42_sequencer.md R99, R95 (b)). -/
def renderNext (c : Configuration) (g : Gfe) : Gfe :=
  let g' :=
    if g.step.toNat ≤ 6 then { g with tbuf := transpose (glyphAt g.rxbuf (g.step.toNat + 1)) } else g
  if g.step.toNat < 23 then { g' with step := g.step + 1#5 } else renderDone c g'

/-- S after a completed diagnostic command (42_sequencer.md R110). -/
def diagNext (g : Gfe) : Gfe :=
  let dstep := g.dstep + 1#2
  { g with dstep := dstep, phase := if dstep = 3#2 then .fault else g.phase }

/-- DISP_OK: the outstanding display command is complete and has had its effect on the DISPLAY (42_sequencer.md R99, R110,
R112; 44_environment.md R123). -/
def execDispOk (s : State) : Result :=
  if s.gfe.fault then
    match s.gfe.phase with
    | .diag => .next ((s.withDisplay s.displayAfterOk).withGfe (diagNext s.gfe)).issue
    | .listen => ignored s
    | .accum => ignored s
    | .render => ignored s
    | .ack => ignored s
    | .fault => ignored s
  else
    match s.gfe.phase with
    | .render => .next ((s.withDisplay s.displayAfterOk).withGfe (renderNext s.cfg s.gfe)).issue
    | .listen => violation s
    | .accum => violation s
    | .ack => violation s
    | .diag => violation s
    | .fault => violation s

/-- DISP_ERR: the outstanding display command failed and the DISPLAY is unspecified (44_environment.md R123). In RENDER it
is the runtime fault that leads to the diagnostic (42_sequencer.md R101); in DIAG the diagnostic is abandoned (R111). -/
def execDispErr (s : State) : Result :=
  if s.gfe.fault then
    match s.gfe.phase with
    | .diag => .next (s.displayUnspecified.withGfe { s.gfe with phase := .fault }).issue
    | .listen => ignored s
    | .accum => ignored s
    | .render => ignored s
    | .ack => ignored s
    | .fault => ignored s
  else
    match s.gfe.phase with
    | .render => takeFault .displayError s.displayUnspecified
    | .listen => violation s
    | .accum => violation s
    | .ack => violation s
    | .diag => violation s
    | .fault => violation s

/-- NET_WRITE_DONE: the acknowledgment byte is in the PEER-bound stream; ACK goes to ACCUM (42_sequencer.md R104, R112;
44_environment.md R119). -/
def execNetWriteDone (s : State) : Result :=
  if s.gfe.fault then ignored s
  else
    match s.gfe.phase with
    | .ack =>
      .next ((s.withPeer { s.peer with acks := s.peer.acks ++ [ackChar] }).withGfe (enterAccum s.gfe)).issue
    | .listen => violation s
    | .accum => violation s
    | .render => violation s
    | .diag => violation s
    | .fault => violation s

/-- NET_WRITE_ERR: the acknowledgment could not be written (42_sequencer.md R105, R112). -/
def execNetWriteErr (s : State) : Result :=
  if s.gfe.fault then ignored s
  else
    match s.gfe.phase with
    | .ack => takeFault .ackWriteError s
    | .listen => violation s
    | .accum => violation s
    | .render => violation s
    | .diag => violation s
    | .fault => violation s

end Sys2Proof.Machine
end

