-- ==== Sys2Proof/Machine/StatusPort.lean ====
section
/-! DEFINITION. The status port: STAT_READ and STAT_VALUE (43_status_port.md R113, R114). -/

namespace Sys2Proof.Machine

/-- STAT_READ a: the GFE emits STAT_VALUE(a, stat_value(a, S)); S and the outstanding request are unchanged, in every state
(43_status_port.md R113). -/
def execStatRead (a : Byte) (s : State) : Result :=
  .next { s with due := .status a, emitted := s.emitted ++ [.statValue a (statValue a s.cfg s.gfe)] }

/-- STAT_VALUE a, v: shown once, immediately after the STAT_READ it answers (43_status_port.md R114; log 9). -/
def execStatValue (a : Byte) (v : Word) (s : State) : Result :=
  if s.due = .status a ∧ v = statValue a s.cfg s.gfe then .next { s with due := .nothing } else .refused .notEmitted

end Sys2Proof.Machine
end

