-- ==== Sys2Proof/Machine/Dispatch.lean ====
section
/-! DEFINITION. exec: one arm per constructor of Instr, each a direct call of the instruction's meaning. -/

namespace Sys2Proof.Machine

/-- The meaning of a token in a state (42_sequencer.md R91, R92). -/
def exec (i : Instr) (s : State) : Host.Outcome State Fault Refusal :=
  match i with
  | .reset => Sys2Proof.Machine.execReset s
  | .statRead a => Sys2Proof.Machine.execStatRead a s
  | .statValue a v => Sys2Proof.Machine.execStatValue a v s
  | .netAccept => Sys2Proof.Machine.execNetAccept s
  | .netRead need => Sys2Proof.Machine.execNetRead need s
  | .netWrite b => Sys2Proof.Machine.execNetWrite b s
  | .netAccepted => Sys2Proof.Machine.execNetAccepted s
  | .netData d => Sys2Proof.Machine.execNetData d s
  | .netReadErr => Sys2Proof.Machine.execNetReadErr s
  | .netWriteDone => Sys2Proof.Machine.execNetWriteDone s
  | .netWriteErr => Sys2Proof.Machine.execNetWriteErr s
  | .dispClear => Sys2Proof.Machine.execDispClear s
  | .dispWriteText t => Sys2Proof.Machine.execDispWriteText t s
  | .dispLoadGlyph slot rows => Sys2Proof.Machine.execDispLoadGlyph slot rows s
  | .dispMoveCursor col row => Sys2Proof.Machine.execDispMoveCursor col row s
  | .dispWriteChar code => Sys2Proof.Machine.execDispWriteChar code s
  | .dispOk => Sys2Proof.Machine.execDispOk s
  | .dispErr => Sys2Proof.Machine.execDispErr s

end Sys2Proof.Machine
end

