-- ==== Sys2Proof/Machine/Step.lean ====
section
/-! DEFINITION. One step: the next token of the trace is fetched and run (00_scope.md R13). -/

namespace Sys2Proof.Machine

/-- One step of the machine: the token at the head of the trace, with the trace moved past it (log 1). -/
def step (s : State) : Host.Outcome State Fault Refusal :=
  match fetch s with
  | .token i rest => exec i (s.withTrace rest)
  | .stop r => .fault r
  | .refuse r => .refused r

/-- s with the token whose bits are w as the whole rest of the trace (log 1). -/
def State.withFetchWord (s : State) (nbits w : Nat) : State := s.withTrace (tableBytes nbits w)

end Sys2Proof.Machine
end

