-- ==== Sys2Proof/Safety.lean ====
section
/-! DEFINITION. What counts as a good state and a good run: the invariants I1 to I8 of 10_state.md R29 and the ranges beside
them, what the DISPLAY holds of a frame, and a run over a list of tokens. -/

namespace Sys2Proof.Machine

/-- The invariants of S that hold in every state reachable from reset: I1 to I8 of 10_state.md R29 under their numbers, then
the ranges of 00_scope.md R8 and 10_state.md R19, R20. I9 is a property of a run, not of one state. -/
structure Gfe.Inv (c : Configuration) (g : Gfe) : Prop where
  i1 : g.phase = .listen →
    g.offset = 0#6 ∧ g.step = 0#5 ∧ g.dstep = 0#2 ∧ g.fault = false ∧ g.cause = .none ∧ g.frames = 0#32
  i2 : g.phase = .accum →
    g.offset ≤ 39#6 ∧ g.step = 0#5 ∧ g.dstep = 0#2 ∧ g.fault = false ∧ g.cause = .none
  i3 : g.phase = .render →
    g.offset = 40#6 ∧ g.step ≤ 23#5 ∧ g.dstep = 0#2 ∧ g.fault = false ∧ g.cause = .none
  i4 : g.phase = .ack →
    c.mode = .ackPaced ∧ g.offset = 40#6 ∧ g.step = 0#5 ∧ g.dstep = 0#2 ∧ g.fault = false ∧ g.cause = .none
  i5 : g.phase = .diag →
    g.fault = true ∧ g.cause = .displayError ∧ g.offset = 40#6 ∧ g.dstep ≤ 2#2 ∧ g.step ≤ 23#5
  i6 : g.phase = .fault → g.fault = true ∧ g.cause ≠ .none
  i7 : g.phase = .render → g.step ≤ 7#5 → g.tbuf = transpose (glyphAt g.rxbuf g.step.toNat)
  i8 : g.phase = .render → 8#5 ≤ g.step → g.tbuf = transpose (glyphAt g.rxbuf 7)
  stepRange : g.step ≤ 23#5
  offsetRange : g.offset ≤ 40#6
  noDiagnostic : g.phase = .fault → g.cause ≠ .displayError → g.dstep = 0#2

/-- What a latched cause records of OFFSET (60_exceptions.md R128, column "values recorded"). -/
def Gfe.CauseRecorded (g : Gfe) : Prop :=
  match g.cause with
  | .none => True
  | .eofAtBoundary => g.offset = 0#6
  | .eofMidFrame => 1#6 ≤ g.offset ∧ g.offset ≤ 39#6
  | .rxOverrun => g.offset ≤ 39#6
  | .netReadError => g.offset ≤ 39#6
  | .ackWriteError => g.offset = 40#6
  | .displayError => g.offset = 40#6 ∧ g.step ≤ 23#5
  | .protocolViolation => True

/-- The invariant of the machine: S's own, and a legal configuration (00_scope.md R7). -/
structure State.Inv (s : State) : Prop where
  gfe : s.gfe.Inv s.cfg
  legal : s.cfg.legal = true

/-- Every byte of TBUF has bits 7:5 = 0 (10_state.md R29 I9). -/
def LowRows (y : RmGlyph) : Prop := ∀ r : Fin 8, ∀ b : Nat, 5 ≤ b → bit y[r] b = false

/-- The DISPLAY shows the record: slot k holds glyph k in row-major form, and the grid cell of k holds code k
(42_sequencer.md R93, R96, R98; 44_environment.md R123). -/
def FrameShown (c : Configuration) (rxbuf : Vector Byte 40) (d : Display) : Prop :=
  ∀ k : Fin 8, d.slot[k] = transpose (glyphAt rxbuf k.val) ∧
    d.cellAt (k.val / 4) (c.baseCol.toNat + k.val % 4) = .code (BitVec.ofNat 8 k.val)

/-- What the DISPLAY holds after the first n commands of a frame: the slots loaded, the cells written, and the cursor where
the next character goes (42_sequencer.md R94; 44_environment.md R123). -/
structure FrameSoFar (c : Configuration) (rxbuf : Vector Byte 40) (n : Nat) (d : Display) : Prop where
  loaded : ∀ k : Fin 8, k.val < n → d.slot[k] = transpose (glyphAt rxbuf k.val)
  written : ∀ k : Fin 8, 9 + 2 * k.val < n →
    d.cellAt (k.val / 4) (c.baseCol.toNat + k.val % 4) = .code (BitVec.ofNat 8 k.val)
  aimed : ∀ k : Fin 8, n = 9 + 2 * k.val → d.cursor = .pos (gridCol c k.val) (gridRow k.val)

/-- In RENDER the DISPLAY holds what the completed commands of this frame have put there; in ACK, the whole frame. -/
structure State.DisplayInv (s : State) : Prop where
  rendering : s.gfe.phase = .render → FrameSoFar s.cfg s.gfe.rxbuf s.gfe.step.toNat s.display
  acknowledging : s.gfe.phase = .ack → FrameShown s.cfg s.gfe.rxbuf s.display

/-- The tokens of a list run one after another; none where one of them has no next state. -/
def runTokens : List Instr → State → Option State
  | [], s => some s
  | i :: is, s =>
    match exec i s with
    | .next t => runTokens is t
    | .fault _ => none
    | .refused _ => none

/-- An outcome with its next state, if there is one, changed by f. -/
def mapNext (f : State → State) : Result → Result
  | .next s => .next (f s)
  | .fault r => .fault r
  | .refused r => .refused r

/-- The machine with the sampled MODE replaced. -/
def State.withMode (s : State) (m : Pacing) : State := { s with cfg := { s.cfg with mode := m } }

/-- A response: what an environment agent other than the SUPERVISOR supplies (42_sequencer.md R92). -/
def isResponse (i : Instr) : Bool := decide (i.direction = .toGfe) && decide (i.port ≠ .supervisor)

/-- The responses accepted in each STATE while FAULT = 0 (60_exceptions.md R131). -/
def acceptedIn (p : Phase) (i : Instr) : Bool :=
  match p with
  | .listen => decide (i = .netAccepted)
  | .accum => decide (i = .netReadErr) || decide (i.tag = 0x19#8)
  | .render => decide (i = .dispOk) || decide (i = .dispErr)
  | .ack => decide (i = .netWriteDone) || decide (i = .netWriteErr)
  | .diag => false
  | .fault => false

end Sys2Proof.Machine
end

