-- ==== Sys2Proof/Certificates/Slice0/Obligations.lean ====
section
/-! DEFINITION. The statements for the provers: what the spec's rules say the tokens and the machine do. -/

open Sys2Proof
open Sys2Proof.Machine

/-! ## The encoding -/

/-- Decode and encode agree on every well-formed token, whatever follows it (30_encoding.md R61, R62, R64, R65, R68). -/
def Obligations.DecodeOfEncode : Prop :=
  ∀ (i : Instr) (rest : List Byte), wellFormed i = true → decode (encode i ++ rest) = .ok (i, rest)

/-- Encode and decode agree on every byte string that holds a token: no bit of an encoding is dropped (30_encoding.md R61,
R62, R64, R65, R68). -/
def Obligations.EncodeOfDecode : Prop :=
  ∀ (s : List Byte) (i : Instr) (rest : List Byte),
    decode s = .ok (i, rest) → wellFormed i = true ∧ encode i ++ rest = s

/-- A trace is the concatenation of its tokens with no separators (30_encoding.md R68). -/
def Obligations.TraceIsConcatenationOfTokens : Prop :=
  ∀ is : List Instr, (∀ i ∈ is, wellFormed i = true) → decodeTrace (is.flatMap encode) = (is, none)

/-- The verdict UNKNOWN_TAG is given for the reserved tags of 30_encoding.md R69 and for no other tag (R70). -/
def Obligations.ReservedTagsAreUnknown : Prop :=
  ∀ (tag : Byte) (rest : List Byte),
    decode (tag :: rest) = .error .unknownTag ↔
      (tag = 0x00#8 ∨ (0x04#8 ≤ tag ∧ tag ≤ 0x0F#8) ∨ (0x13#8 ≤ tag ∧ tag ≤ 0x17#8) ∨ (0x1D#8 ≤ tag ∧ tag ≤ 0x1F#8) ∨
        (0x25#8 ≤ tag ∧ tag ≤ 0x27#8) ∨ 0x2A#8 ≤ tag)

/-- Every proper, non-empty prefix of a token is TRUNCATED (30_encoding.md R68, R70). -/
def Obligations.CutTokensAreTruncated : Prop :=
  ∀ (i : Instr) (n : Nat), wellFormed i = true → 0 < n → n < (encode i).length →
    decode ((encode i).take n) = .error .truncated

/-- Words written out from 30_encoding.md R62 and 95_test_vectors.md decode to the tokens they stand for. -/
def Obligations.SampleWordsDecode : Prop :=
  decode [0x01] = .ok (.reset, []) ∧
  decode [0x02, 0x80] = .ok (.statRead 0x80, []) ∧
  decode [0x03, 0x00, 0x2D, 0x07, 0x00, 0x00] = .ok (.statValue 0x00 0x0000072D, []) ∧
  decode [0x11, 0x1B] = .ok (.netRead 27, []) ∧
  decode [0x19, 0x03, 0xAA, 0xBB, 0xCC] = .ok (.netData [0xAA, 0xBB, 0xCC], []) ∧
  decode [0x21, 0x03, 0x45, 0x52, 0x52] = .ok (.dispWriteText [0x45, 0x52, 0x52], []) ∧
  decode [0x22, 0x00, 0x10, 0x00, 0x00, 0x00, 0x00, 0x00, 0x00, 0x00] =
    .ok (.dispLoadGlyph 0 #v[0x10, 0x00, 0x00, 0x00, 0x00, 0x00, 0x00, 0x00], []) ∧
  decode [0x23, 0x0C, 0x01] = .ok (.dispMoveCursor 12 1, [])

/-! ## A step -/

/-- A step runs the token at the head of the trace, with the trace moved past it and nothing else changed (00_scope.md
R13). That tokens come from a trace is the model's choice (log 1). -/
def Obligations.StepRunsDecodedToken : Prop :=
  ∀ (s : State) (i : Instr) (rest : List Byte),
    decode s.trace = .ok (i, rest) → step s = exec i { s with trace := rest }

/-- Without a token the machine is held or finished (44_environment.md R127); a refused position ends the trace
(30_encoding.md R70). That a step then stops under these names is the model's choice (log 16). -/
def Obligations.StepStopsWithoutToken : Prop :=
  ∀ s : State,
    (s.trace = [] → s.gfe.phase = .fault → step s = .fault .finished) ∧
    (s.trace = [] → s.gfe.phase ≠ .fault → s.gfe.dstep ≠ 3#2 → step s = .fault .held) ∧
    (s.trace ≠ [] → decode s.trace = .error .unknownTag → step s = .refused .unknownTag) ∧
    (s.trace ≠ [] → decode s.trace = .error .truncated → step s = .refused .truncated)

/-! ## Reset and configuration -/

/-- What power-on leaves, of the values 10_state.md R35 gives; its request is NET_ACCEPT (70_reset_and_hazards.md R143). -/
def Obligations.PowerOnState : Prop :=
  State.reset.gfe.phase = .listen ∧ State.reset.gfe.step = 0#5 ∧ State.reset.gfe.dstep = 0#2 ∧
  State.reset.gfe.offset = 0#6 ∧ State.reset.gfe.fault = false ∧ State.reset.gfe.cause = .none ∧
  State.reset.gfe.frames = 0#32 ∧ State.reset.cfg = State.reset.cfgIn ∧ State.reset.request = some .netAccept

/-- RESET in every state with a legal configuration at its inputs: the values of 10_state.md R35, RXBUF and TBUF any
value, the configuration sampled, NET_ACCEPT issued; the DISPLAY is untouched unless a command was outstanding
(70_reset_and_hazards.md R143 to R145). That the log of a run and the connection start anew is the model's choice
(log 11, log 12). The fields `due` and `emitted` are the model's (log 9, log 11). -/
def Obligations.ResetRestarts : Prop :=
  ∀ s : State, s.cfgIn.legal = true →
    ∃ (rxbuf : Vector Byte 40) (tbuf : RmGlyph) (display : Display) (free : Nat),
      exec .reset s = .next
        { s with
          gfe := { phase := .listen, step := 0#5, dstep := 0#2, offset := 0#6, fault := false, cause := .none,
                   frames := 0#32, rxbuf := rxbuf, tbuf := tbuf }
          cfg := s.cfgIn
          display := display
          peer := { pending := [], closed := false, acks := [] }
          due := .request
          emitted := [.netAccept]
          free := free } ∧
      (s.displayCommandOutstanding = false → display = s.display)

/-- RESET with BASE_COL above 12 at its inputs is refused (00_scope.md R7, 70_reset_and_hazards.md R144). -/
def Obligations.ResetRefusesIllegalConfiguration : Prop :=
  ∀ s : State, 12#4 < s.cfgIn.baseCol → exec .reset s = .refused .illegalConfiguration

/-- The configuration is constant between resets: no token but RESET changes it, and none changes the inputs
(70_reset_and_hazards.md R144). The second clause, that exec leaves the trace alone, is the model's (log 1). -/
def Obligations.ConfigurationIsConstant : Prop :=
  ∀ (i : Instr) (s t : State), exec i s = .next t →
    (i ≠ .reset → t.cfg = s.cfg) ∧ (i = .reset → t.cfg = s.cfgIn) ∧ t.cfgIn = s.cfgIn ∧ t.trace = s.trace

/-! ## The framer -/

/-- NET_ACCEPTED in LISTEN: STATE, OFFSET and STEP are written, NET_READ 40 is issued, nothing else changes
(41_framer.md R82). The fields `due` and `emitted` are the model's (log 9, log 11). -/
def Obligations.AcceptedConnectionStartsAccumulation : Prop :=
  ∀ s : State, s.gfe.phase = .listen → s.gfe.fault = false →
    exec .netAccepted s = .next
      { s with
        gfe := { s.gfe with phase := .accum, offset := 0#6, step := 0#5 }
        due := .request
        emitted := s.emitted ++ [.netRead 40#8] }

/-- A non-empty read of at most 40 - OFFSET bytes: RXBUF[OFFSET..OFFSET+k-1] takes them in order and every other byte
of it is unchanged; OFFSET advances; the 40th byte starts RENDER at STEP 0 with glyph 0 transposed, else the next
NET_READ is issued; the transport loses its first k bytes; nothing else changes (41_framer.md R84, R85;
42_sequencer.md R95; 44_environment.md R118 (a)). That it loses them also where they are not the bytes delivered, an
environment that breaks its duty, is the model's choice (log 12). The fields `due` and `emitted` are the model's (log
9, log 11). -/
def Obligations.ReadBytesFillTheBuffer : Prop :=
  ∀ (s : State) (d : List Byte), s.gfe.phase = .accum → s.gfe.fault = false →
    1 ≤ d.length → s.gfe.offset.toNat + d.length ≤ 40 →
    ∃ (rxbuf : Vector Byte 40) (offset : BitVec 6),
      (∀ (k : Nat) (hk : k < 40),
        (k < s.gfe.offset.toNat ∨ s.gfe.offset.toNat + d.length ≤ k → rxbuf[k] = s.gfe.rxbuf[k]) ∧
        (∀ b, s.gfe.offset.toNat ≤ k → d[k - s.gfe.offset.toNat]? = some b → rxbuf[k] = b)) ∧
      offset.toNat = s.gfe.offset.toNat + d.length ∧
      (offset.toNat < 40 →
        exec (.netData d) s = .next
          { s with
            gfe := { s.gfe with rxbuf := rxbuf, offset := offset }
            peer := { s.peer with pending := s.peer.pending.drop d.length }
            due := .request
            emitted := s.emitted ++ [.netRead (BitVec.ofNat 8 (40 - offset.toNat))] }) ∧
      (offset.toNat = 40 →
        exec (.netData d) s = .next
          { s with
            gfe := { s.gfe with
              rxbuf := rxbuf, offset := offset, phase := .render, step := 0#5,
              tbuf := transpose #v[rxbuf[0], rxbuf[1], rxbuf[2], rxbuf[3], rxbuf[4]] }
            peer := { s.peer with pending := s.peer.pending.drop d.length }
            due := .request
            emitted := s.emitted ++
              [.dispLoadGlyph 0#8 (transpose #v[rxbuf[0], rxbuf[1], rxbuf[2], rxbuf[3], rxbuf[4]])] })

/-- A zero-length read at any OFFSET in 0..39 latches CAUSE 1 (at 0) or 2 (at 1..39) and goes to FAULT; nothing else
changes and nothing is issued (41_framer.md R86). The fields `due` and `emitted` are the model's (log 9, log 11). The
transport is as it was, closed or not (log 15). -/
def Obligations.EndOfStreamIsTerminal : Prop :=
  ∀ s : State, s.gfe.phase = .accum → s.gfe.fault = false → s.gfe.offset ≤ 39#6 →
    exec (.netData []) s = .next
      { s with
        gfe := { s.gfe with
          fault := true, phase := .fault, cause := if s.gfe.offset = 0#6 then .eofAtBoundary else .eofMidFrame }
        due := .nothing }

/-- A read longer than requested latches CAUSE 3 and writes no byte (41_framer.md R87). The fields `due` and
`emitted` are the model's (log 9, log 11). That the transport keeps its bytes is the model's inference (log 15). -/
def Obligations.OverrunIsTerminal : Prop :=
  ∀ (s : State) (d : List Byte), s.gfe.phase = .accum → s.gfe.fault = false → s.gfe.offset ≤ 39#6 →
    40 - s.gfe.offset.toNat < d.length →
    exec (.netData d) s = .next
      { s with gfe := { s.gfe with fault := true, cause := .rxOverrun, phase := .fault }, due := .nothing }

/-- NET_READ_ERR in ACCUM latches CAUSE 4 (41_framer.md R88). The fields `due` and `emitted` are the model's (log 9,
log 11). -/
def Obligations.ReadErrorIsTerminal : Prop :=
  ∀ s : State, s.gfe.phase = .accum → s.gfe.fault = false →
    exec .netReadErr s = .next
      { s with gfe := { s.gfe with fault := true, cause := .netReadError, phase := .fault }, due := .nothing }

/-- The reassembly law: whatever the chunks, RXBUF is the record and RENDER begins (20_memory.md R42). -/
def Obligations.AnyChunkingReassemblesTheRecord : Prop :=
  ∀ (s : State) (chunks : List (List Byte)),
    s.gfe.phase = .accum → s.gfe.fault = false → s.gfe.offset = 0#6 →
    (∀ c ∈ chunks, 1 ≤ c.length) → chunks.flatten.length = 40 →
    ∃ t, runTokens (chunks.map .netData) s = some t ∧ t.gfe.rxbuf.toList = chunks.flatten ∧
      t.gfe.phase = .render ∧ t.gfe.step = 0#5 ∧ t.gfe.offset = 40#6

/-- After a fault no NET_READ is issued until RESET, whatever the environment supplies (41_framer.md R90 (b), 20_memory.md
R50). -/
def Obligations.NoReadAfterFaultUntilReset : Prop :=
  ∀ (is : List Instr) (s t : State), s.gfe.fault = true → .reset ∉ is → runTokens is s = some t →
    t.gfe.fault = true ∧
      ∃ later, t.emitted = s.emitted ++ later ∧ ∀ need, Instr.netRead need ∉ later

/-- A read that keeps the PEER's duties takes exactly its bytes from the head of the transport: none is lost, duplicated or
reordered (44_environment.md R118). -/
def Obligations.ReadsConserveTheStream : Prop :=
  ∀ (s : State) (d : List Byte), s.Inv → d ≠ [] → environmentMay (.netData d) s = true →
    ∃ t, exec (.netData d) s = .next t ∧ s.peer.pending = d ++ t.peer.pending

/-! ## The sequencer -/

/-- The outstanding request of each STATE (42_sequencer.md R91, R94, R107; 41_framer.md R81, R84). -/
def Obligations.RequestOfEachState : Prop :=
  ∀ s : State,
    (s.gfe.phase = .listen → s.request = some .netAccept) ∧
    (s.gfe.phase = .accum → s.request = some (.netRead (BitVec.ofNat 8 (40 - s.gfe.offset.toNat)))) ∧
    (s.gfe.phase = .render → s.request = some (renderCmd s.cfg s.gfe.step.toNat s.gfe.tbuf)) ∧
    (s.gfe.phase = .ack → s.request = some (.netWrite 0x41#8)) ∧
    (s.gfe.phase = .diag → s.gfe.dstep = 0#2 → s.request = some .dispClear) ∧
    (s.gfe.phase = .diag → s.gfe.dstep = 1#2 → s.request = some (.dispMoveCursor 0#8 0#8)) ∧
    (s.gfe.phase = .diag → s.gfe.dstep = 2#2 → s.request = some (.dispWriteText (s.cfg.diagText.take 16))) ∧
    (s.gfe.phase = .fault → s.request = none)

/-- The 24 commands of one frame, row by row, for every legal BASE_COL (42_sequencer.md R94). -/
def Obligations.FrameCommandTable : Prop :=
  ∀ (c : Configuration) (y : RmGlyph), c.legal = true →
    (List.range 24).map (fun s => renderCmd c s y) =
      [.dispLoadGlyph 0 y, .dispLoadGlyph 1 y, .dispLoadGlyph 2 y, .dispLoadGlyph 3 y,
       .dispLoadGlyph 4 y, .dispLoadGlyph 5 y, .dispLoadGlyph 6 y, .dispLoadGlyph 7 y,
       .dispMoveCursor (c.baseCol.zeroExtend 8 + 0) 0, .dispWriteChar 0,
       .dispMoveCursor (c.baseCol.zeroExtend 8 + 1) 0, .dispWriteChar 1,
       .dispMoveCursor (c.baseCol.zeroExtend 8 + 2) 0, .dispWriteChar 2,
       .dispMoveCursor (c.baseCol.zeroExtend 8 + 3) 0, .dispWriteChar 3,
       .dispMoveCursor (c.baseCol.zeroExtend 8 + 0) 1, .dispWriteChar 4,
       .dispMoveCursor (c.baseCol.zeroExtend 8 + 1) 1, .dispWriteChar 5,
       .dispMoveCursor (c.baseCol.zeroExtend 8 + 2) 1, .dispWriteChar 6,
       .dispMoveCursor (c.baseCol.zeroExtend 8 + 3) 1, .dispWriteChar 7]

/-- DISP_OK in RENDER before the last command: STEP advances, the next glyph is transposed after the loads of glyphs
0 to 6, the completed command has its effect on the DISPLAY, the next command is issued, nothing else changes
(42_sequencer.md R99; 44_environment.md R123). The fields `due` and `emitted` are the model's (log 9, log 11). -/
def Obligations.DisplayOkAdvancesTheFrame : Prop :=
  ∀ s : State, s.gfe.phase = .render → s.gfe.fault = false → s.gfe.step < 23#5 →
    ∃ tbuf : RmGlyph,
      (s.gfe.step ≤ 6#5 → tbuf = transpose (glyphAt s.gfe.rxbuf (s.gfe.step.toNat + 1))) ∧
      (6#5 < s.gfe.step → tbuf = s.gfe.tbuf) ∧
      exec .dispOk s = .next
        { s with
          gfe := { s.gfe with step := s.gfe.step + 1#5, tbuf := tbuf }
          display := s.display.apply (renderCmd s.cfg s.gfe.step.toNat s.gfe.tbuf)
          due := .request
          emitted := s.emitted ++ [renderCmd s.cfg (s.gfe.step.toNat + 1) tbuf] }

/-- The DISP_OK that answers command 23: the frame is counted, modulo 2^32; in ack-paced mode ACK follows with
NET_WRITE 0x41, else ACCUM with OFFSET 0 and NET_READ 40 (10_state.md R25; 42_sequencer.md R100; 44_environment.md
R123). The fields `due` and `emitted` are the model's (log 9, log 11). -/
def Obligations.LastDisplayOkCompletesTheFrame : Prop :=
  ∀ s : State, s.gfe.phase = .render → s.gfe.fault = false → s.gfe.step = 23#5 →
    (s.cfg.mode = .ackPaced →
      exec .dispOk s = .next
        { s with
          gfe := { s.gfe with frames := s.gfe.frames + 1#32, step := 0#5, phase := .ack }
          display := s.display.apply (.dispWriteChar 7)
          due := .request
          emitted := s.emitted ++ [.netWrite 0x41#8] }) ∧
    (s.cfg.mode = .delayPaced →
      exec .dispOk s = .next
        { s with
          gfe := { s.gfe with frames := s.gfe.frames + 1#32, step := 0#5, phase := .accum, offset := 0#6 }
          display := s.display.apply (.dispWriteChar 7)
          due := .request
          emitted := s.emitted ++ [.netRead 40#8] })

/-- DISP_ERR in RENDER latches CAUSE 6 and enters DIAG at DSTEP 0 with STEP frozen; DISP_CLEAR is issued; the DISPLAY
is any value; nothing else changes (42_sequencer.md R101; 44_environment.md R123). The fields `due` and `emitted` are
the model's (log 9, log 11). -/
def Obligations.DisplayErrorStartsTheDiagnostic : Prop :=
  ∀ s : State, s.gfe.phase = .render → s.gfe.fault = false →
    ∃ (display : Display) (free : Nat),
      exec .dispErr s = .next
        { s with
          gfe := { s.gfe with fault := true, cause := .displayError, phase := .diag, dstep := 0#2 }
          display := display
          free := free
          due := .request
          emitted := s.emitted ++ [.dispClear] }

/-- DISP_OK in DIAG: DSTEP advances and the next diagnostic command is issued; the third ends in FAULT; the completed
command has its effect on the DISPLAY (42_sequencer.md R110, R107). The fields `due` and `emitted` are the model's
(log 9, log 11). -/
def Obligations.DisplayOkAdvancesTheDiagnostic : Prop :=
  ∀ s : State, s.gfe.phase = .diag → s.gfe.fault = true →
    (s.gfe.dstep = 0#2 →
      exec .dispOk s = .next
        { s with
          gfe := { s.gfe with dstep := 1#2 }
          display := s.display.apply .dispClear
          due := .request
          emitted := s.emitted ++ [.dispMoveCursor 0#8 0#8] }) ∧
    (s.gfe.dstep = 1#2 →
      exec .dispOk s = .next
        { s with
          gfe := { s.gfe with dstep := 2#2 }
          display := s.display.apply (.dispMoveCursor 0#8 0#8)
          due := .request
          emitted := s.emitted ++ [.dispWriteText (s.cfg.diagText.take 16)] }) ∧
    (s.gfe.dstep = 2#2 →
      exec .dispOk s = .next
        { s with
          gfe := { s.gfe with dstep := 3#2, phase := .fault }
          display := s.display.apply (.dispWriteText (s.cfg.diagText.take 16))
          due := .nothing })

/-- DISP_ERR in DIAG abandons the diagnostic: FAULT, with DSTEP and CAUSE kept, nothing issued, the DISPLAY any value
(42_sequencer.md R111; 44_environment.md R123). The fields `due` and `emitted` are the model's (log 9, log 11). -/
def Obligations.DisplayErrorAbandonsTheDiagnostic : Prop :=
  ∀ s : State, s.gfe.phase = .diag → s.gfe.fault = true →
    ∃ (display : Display) (free : Nat),
      exec .dispErr s = .next
        { s with gfe := { s.gfe with phase := .fault }, display := display, free := free, due := .nothing }

/-- NET_WRITE_DONE in ACK: ACCUM with OFFSET and STEP 0, NET_READ 40 issued; the byte 0x41 is in the PEER-bound
stream (42_sequencer.md R104; 44_environment.md R119). The fields `due` and `emitted` are the model's (log 9, log
11). -/
def Obligations.AcknowledgmentStartsTheNextRecord : Prop :=
  ∀ s : State, s.gfe.phase = .ack → s.gfe.fault = false →
    exec .netWriteDone s = .next
      { s with
        gfe := { s.gfe with phase := .accum, offset := 0#6, step := 0#5 }
        peer := { s.peer with acks := s.peer.acks ++ [0x41#8] }
        due := .request
        emitted := s.emitted ++ [.netRead 40#8] }

/-- NET_WRITE_ERR in ACK latches CAUSE 5 with no diagnostic (42_sequencer.md R105). The fields `due` and `emitted`
are the model's (log 9, log 11). -/
def Obligations.AcknowledgmentErrorIsTerminal : Prop :=
  ∀ s : State, s.gfe.phase = .ack → s.gfe.fault = false →
    exec .netWriteErr s = .next
      { s with gfe := { s.gfe with fault := true, cause := .ackWriteError, phase := .fault }, due := .nothing }

/-- While FAULT = 0, a response that is not accepted in the current STATE latches CAUSE 7 and has no other effect on
S (60_exceptions.md R131). That a display command outstanding then leaves the DISPLAY any value is the model's
inference (log 8). The fields `due` and `emitted` are the model's (log 9, log 11). That an unasked NET_DATA takes no
bytes from the transport is the model's inference too (log 15). -/
def Obligations.UnaskedResponsesViolateTheProtocol : Prop :=
  ∀ (i : Instr) (s : State), isResponse i = true → s.gfe.fault = false → acceptedIn s.gfe.phase i = false →
    ∃ (display : Display) (free : Nat),
      exec i s = .next
        { s with
          gfe := { s.gfe with fault := true, cause := .protocolViolation, phase := .fault }
          display := display
          free := free
          due := .nothing } ∧
      (s.displayCommandOutstanding = false → display = s.display)

/-- While FAULT = 1 every response is ignored, leaving the state unchanged, except DISP_OK and DISP_ERR in DIAG
(60_exceptions.md R132). The rule says so of S; that the transport, the DISPLAY and what is due are unchanged too is
the model's inference (log 15). -/
def Obligations.FaultedMachineIgnoresResponses : Prop :=
  ∀ (i : Instr) (s : State), isResponse i = true → s.gfe.fault = true →
    (s.gfe.phase = .diag → i ≠ .dispOk ∧ i ≠ .dispErr) → exec i s = .next s

/-- The first cause wins, and only RESET clears FAULT (60_exceptions.md R132, R133). -/
def Obligations.FaultIsLatchedUntilReset : Prop :=
  ∀ (i : Instr) (s t : State), s.gfe.fault = true → i ≠ .reset → exec i s = .next t →
    t.gfe.fault = true ∧ t.gfe.cause = s.gfe.cause

/-! ## The GFE's own tokens in a trace -/

/-- The NET requests are shown right after they are issued; showing one changes no state of the GFE or its environment
(41_framer.md R81, R84; 42_sequencer.md R103). That a trace line shows each token once is the model's choice (log 9). -/
def Obligations.NetRequestsAreShown : Prop :=
  ∀ s : State, s.due = .request →
    (s.gfe.phase = .listen → exec .netAccept s = .next { s with due := .nothing }) ∧
    (s.gfe.phase = .accum →
      exec (.netRead (BitVec.ofNat 8 (40 - s.gfe.offset.toNat))) s = .next { s with due := .nothing }) ∧
    (s.gfe.phase = .ack → exec (.netWrite 0x41#8) s = .next { s with due := .nothing })

/-- The display requests of a frame are shown right after they are issued (42_sequencer.md R96, R97, R98; log 9). -/
def Obligations.FrameRequestsAreShown : Prop :=
  ∀ s : State, s.due = .request → s.gfe.phase = .render →
    (s.gfe.step ≤ 7#5 →
      exec (.dispLoadGlyph (BitVec.ofNat 8 s.gfe.step.toNat) s.gfe.tbuf) s = .next { s with due := .nothing }) ∧
    (∀ k : Fin 8, s.gfe.step.toNat = 8 + 2 * k.val →
      exec (.dispMoveCursor (BitVec.ofNat 8 (s.cfg.baseCol.toNat + k.val % 4)) (BitVec.ofNat 8 (k.val / 4))) s =
        .next { s with due := .nothing }) ∧
    (∀ k : Fin 8, s.gfe.step.toNat = 9 + 2 * k.val →
      exec (.dispWriteChar (BitVec.ofNat 8 k.val)) s = .next { s with due := .nothing })

/-- The display requests of the diagnostic are shown right after they are issued (42_sequencer.md R108, R97, R109; log 9). -/
def Obligations.DiagnosticRequestsAreShown : Prop :=
  ∀ s : State, s.due = .request → s.gfe.phase = .diag →
    (s.gfe.dstep = 0#2 → exec .dispClear s = .next { s with due := .nothing }) ∧
    (s.gfe.dstep = 1#2 → exec (.dispMoveCursor 0#8 0#8) s = .next { s with due := .nothing }) ∧
    (s.gfe.dstep = 2#2 → exec (.dispWriteText (s.cfg.diagText.take 16)) s = .next { s with due := .nothing })

/-- A GFE token that is not what the GFE has just emitted is refused: such a trace is not a trace of the GFE
(30_encoding.md R66; log 9, log 10). -/
def Obligations.UnissuedTokensAreRefused : Prop :=
  ∀ (i : Instr) (s : State), i.direction = .fromGfe →
    (s.due = .request → s.request ≠ some i) →
    (∀ a, s.due = .status a → i ≠ .statValue a (statValue a s.cfg s.gfe)) →
    exec i s = .refused .notEmitted

/-! ## The status port -/

/-- STAT_READ in every state: STAT_VALUE is emitted, and S, the configuration, the environment and the outstanding
request are unchanged (43_status_port.md R113). The fields `due` and `emitted` are the model's (log 9, log 11). -/
def Obligations.StatusReadHasNoSideEffect : Prop :=
  ∀ (a : Byte) (s : State),
    exec (.statRead a) s = .next
      { s with due := .status a, emitted := s.emitted ++ [.statValue a (statValue a s.cfg s.gfe)] }

/-- STAT_VALUE is shown exactly once, immediately after its STAT_READ (43_status_port.md R114; log 9). -/
def Obligations.StatusValueIsShownOnce : Prop :=
  ∀ (a : Byte) (s : State), s.due = .status a →
    exec (.statValue a (statValue a s.cfg s.gfe)) s = .next { s with due := .nothing } ∧
    exec (.statValue a (statValue a s.cfg s.gfe)) { s with due := .nothing } = .refused .notEmitted

/-- STATUS, field by field, with its reserved bits 0 (10_state.md R30). -/
def Obligations.StatusFields : Prop :=
  ∀ (c : Configuration) (g : Gfe),
    (statValue 0x00#8 c g).extractLsb' 0 3 = g.phase.code ∧
    (statValue 0x00#8 c g).getLsbD 3 = g.fault ∧
    (statValue 0x00#8 c g).extractLsb' 4 4 = g.cause.code ∧
    (statValue 0x00#8 c g).extractLsb' 8 6 = g.offset ∧
    (statValue 0x00#8 c g).extractLsb' 14 2 = 0#2 ∧
    (statValue 0x00#8 c g).extractLsb' 16 5 = g.step ∧
    (statValue 0x00#8 c g).extractLsb' 21 2 = g.dstep ∧
    (statValue 0x00#8 c g).extractLsb' 23 9 = 0#9

/-- FRAMES, CONFIG field by field, and the reserved addresses (10_state.md R31, R32, R33). -/
def Obligations.FramesConfigAndReservedAddresses : Prop :=
  ∀ (c : Configuration) (g : Gfe),
    statValue 0x01#8 c g = g.frames ∧
    ((statValue 0x02#8 c g).getLsbD 0 = true ↔ c.mode = .ackPaced) ∧
    (statValue 0x02#8 c g).extractLsb' 1 3 = 0#3 ∧
    (statValue 0x02#8 c g).extractLsb' 4 4 = c.baseCol ∧
    (statValue 0x02#8 c g).extractLsb' 8 24 = 0#24 ∧
    (∀ a : Byte, 0x03#8 ≤ a → statValue a c g = 0#32)

/-- The codes that STATUS shows (10_state.md R17; 60_exceptions.md R128). -/
def Obligations.StateAndCauseCodes : Prop :=
  [Phase.listen, .accum, .render, .ack, .diag, .fault].map Phase.code = [0, 1, 2, 3, 4, 5] ∧
  [Cause.none, .eofAtBoundary, .eofMidFrame, .rxOverrun, .netReadError, .ackWriteError, .displayError,
    .protocolViolation].map Cause.code = [0, 1, 2, 3, 4, 5, 6, 7]

/-- The terminal fault can be recognised from STATUS alone, and STATUS shows one consistent state: never RENDER with OFFSET
below 40 (43_status_port.md R115, R116). -/
def Obligations.StatusRevealsTheTerminalFault : Prop :=
  ∀ s : State, s.Inv →
    ((statValue 0x00#8 s.cfg s.gfe).extractLsb' 0 3 = 5#3 ↔ s.request = none) ∧
    ((statValue 0x00#8 s.cfg s.gfe).getLsbD 3 = true ↔ s.gfe.phase = .diag ∨ s.gfe.phase = .fault) ∧
    ((statValue 0x00#8 s.cfg s.gfe).extractLsb' 0 3 = 2#3 →
      (statValue 0x00#8 s.cfg s.gfe).extractLsb' 8 6 = 40#6)

/-! ## The transposer -/

/-- TRANSPOSE bit by bit, with bits 7:5 of every output byte 0 (40_transposer.md R74). -/
def Obligations.TransposeMovesEachBit : Prop :=
  ∀ x : CmGlyph,
    (∀ (r : Fin 8) (c : Fin 5), bit (transpose x)[r] (4 - c.val) = bit x[c] (7 - r.val)) ∧
    (∀ (r : Fin 8) (b : Nat), 5 ≤ b → bit (transpose x)[r] b = false)

/-- The inverse law: TRANSPOSE of COMPRESS shows the pixel block (40_transposer.md R79). -/
def Obligations.TransposeInvertsCompress : Prop :=
  ∀ p : PixelBlock,
    (∀ (r : Fin 8) (c : Fin 5), bit (transpose (compress p))[r] (4 - c.val) = p[r][c]) ∧
    (∀ (r : Fin 8) (b : Nat), 5 ≤ b → bit (transpose (compress p))[r] b = false)

/-- TRANSPOSE is a bijection onto the row-major glyphs with zero high bits (40_transposer.md R80). -/
def Obligations.TransposeIsBijective : Prop :=
  (∀ x : CmGlyph, untranspose (transpose x) = x ∧ LowRows (transpose x)) ∧
  (∀ y : RmGlyph, LowRows y → transpose (untranspose y) = y)

/-- TRANSPOSE is linear over bitwise exclusive or (95_test_vectors.md T7). -/
def Obligations.TransposeIsLinear : Prop :=
  ∀ x y : CmGlyph,
    transpose (Vector.zipWith (· ^^^ ·) x y) = Vector.zipWith (· ^^^ ·) (transpose x) (transpose y)

/-! ## Invariants and rules of the whole machine -/

/-- Every step keeps the invariants I1 to I8 and a legal configuration (10_state.md R29; 00_scope.md R7). -/
def Obligations.StepKeepsTheInvariant : Prop :=
  ∀ s t : State, s.Inv → step s = .next t → t.Inv

/-- Every step keeps what the DISPLAY holds of the frame being rendered or acknowledged: every slot loaded so far
holds its own glyph of this frame's record, every cell written so far holds its code, and in ACK all of them do
(42_sequencer.md R93, R102 (d); 44_environment.md R123; 70_reset_and_hazards.md R147, R149). It says nothing of slots
not loaded yet, which keep what they held, nor of the visible picture (90_conflicts.md C3). -/
def Obligations.StepKeepsTheDisplayInvariant : Prop :=
  ∀ s t : State, s.Inv → s.DisplayInv → step s = .next t → t.DisplayInv

/-- Every step keeps what the latched cause records (60_exceptions.md R128). -/
def Obligations.StepKeepsWhatTheCauseRecords : Prop :=
  ∀ s t : State, s.Inv → s.gfe.CauseRecorded → step s = .next t → t.gfe.CauseRecorded

/-- The machine meets its invariants right after power-on (10_state.md R29, R35). -/
def Obligations.PowerOnMeetsTheInvariants : Prop :=
  State.reset.Inv ∧ State.reset.DisplayInv ∧ State.reset.gfe.CauseRecorded

/-- Bits 7:5 of TBUF are 0 from its first write since reset on (10_state.md R29 I9, 42_sequencer.md R95): a token that writes it leaves them 0,
RENDER begins with such a write, and no token but RESET ends it. -/
def Obligations.TransposeBufferHighBitsStayZero : Prop :=
  ∀ (i : Instr) (s t : State), i ≠ .reset → exec i s = .next t →
    (LowRows s.gfe.tbuf → LowRows t.gfe.tbuf) ∧
    (t.gfe.tbuf ≠ s.gfe.tbuf → LowRows t.gfe.tbuf) ∧
    (s.gfe.phase ≠ .render → t.gfe.phase = .render → LowRows t.gfe.tbuf)

/-- One frame, answered DISP_OK throughout: it is counted, the DISPLAY shows the record, and the commands were issued
in the order of 42_sequencer.md R94, each load carrying its own glyph, before the acknowledgment or the next read
(10_state.md R25; 20_memory.md R49; 42_sequencer.md R93, R95, R99, R100, R102; 44_environment.md R123). -/
def Obligations.FrameIsRenderedInOrder : Prop :=
  ∀ s : State, s.Inv → s.gfe.phase = .render → s.gfe.step = 0#5 →
    ∃ t, runTokens (List.replicate 24 .dispOk) s = some t ∧
      t.gfe.frames = s.gfe.frames + 1#32 ∧
      t.gfe.rxbuf = s.gfe.rxbuf ∧
      FrameShown s.cfg s.gfe.rxbuf t.display ∧
      t.emitted = s.emitted ++
        (List.range 23).map (fun n => renderCmd s.cfg (n + 1) (transpose (glyphAt s.gfe.rxbuf (min (n + 1) 7)))) ++
        [match s.cfg.mode with
          | .ackPaced => .netWrite 0x41#8
          | .delayPaced => .netRead 40#8]

/-- Backpressure: outside ACCUM no NET_READ is outstanding, and only a non-empty read of at most 40 - OFFSET bytes in ACCUM
writes RXBUF (20_memory.md R50; 10_state.md R26; 41_framer.md R89). -/
def Obligations.OnlyRequestedReadsWriteTheBuffer : Prop :=
  (∀ s : State, s.gfe.phase ≠ .accum → ∀ need, s.request ≠ some (.netRead need)) ∧
  (∀ (i : Instr) (s t : State), i ≠ .reset → exec i s = .next t → t.gfe.rxbuf ≠ s.gfe.rxbuf →
    s.gfe.phase = .accum ∧ s.gfe.fault = false ∧
      ∃ d, i = .netData d ∧ 1 ≤ d.length ∧ s.gfe.offset.toNat + d.length ≤ 40)

/-- No token but RESET leads back to LISTEN, and none but RESET makes the GFE issue NET_ACCEPT (41_framer.md R83). -/
def Obligations.OneConnectionBetweenResets : Prop :=
  ∀ (i : Instr) (s t : State), i ≠ .reset → exec i s = .next t →
    (t.gfe.phase = .listen → s.gfe.phase = .listen) ∧
    ∃ later, t.emitted = s.emitted ++ later ∧ .netAccept ∉ later

/-- FRAMES counts exactly the frames whose 24 commands all completed (10_state.md R25). -/
def Obligations.FramesCountCompletedFramesOnly : Prop :=
  ∀ (i : Instr) (s t : State), s.Inv → i ≠ .reset → exec i s = .next t →
    (i = .dispOk ∧ s.gfe.phase = .render ∧ s.gfe.step = 23#5 → t.gfe.frames = s.gfe.frames + 1#32) ∧
    (¬(i = .dispOk ∧ s.gfe.phase = .render ∧ s.gfe.step = 23#5) → t.gfe.frames = s.gfe.frames)

/-- An environment that keeps its duties never makes the GFE latch CAUSE 3 or CAUSE 7 (44_environment.md R126). -/
def Obligations.DutifulEnvironmentCausesNoViolation : Prop :=
  ∀ (i : Instr) (s t : State), s.Inv → environmentMay i s = true → exec i s = .next t →
    s.gfe.cause ≠ .rxOverrun → s.gfe.cause ≠ .protocolViolation →
    t.gfe.cause ≠ .rxOverrun ∧ t.gfe.cause ≠ .protocolViolation

/-- Every token the GFE emits has its fields in range, and a STAT_VALUE carries the address it answers (30_encoding.md
R66). -/
def Obligations.EmittedTokensAreInRange : Prop :=
  ∀ (i : Instr) (s t : State), s.Inv → exec i s = .next t →
    ∃ later, t.emitted = (if i = .reset then [] else s.emitted) ++ later ∧
      (∀ q ∈ later, emittable q = true) ∧ (∀ a v, .statValue a v ∈ later → i = .statRead a)

/-- Outside the completion of a frame, the CONFIG read with its STAT_VALUE, and RESET, a token runs the same under
either MODE (42_sequencer.md R106). What these four do with MODE is
`Obligations.ModeActsAtCompletionAndShowsInConfig` (42_sequencer.md R100; 10_state.md R32; 43_status_port.md R114;
70_reset_and_hazards.md R144). -/
def Obligations.ModeDecidesOnlyTheAcknowledgment : Prop :=
  ∀ (i : Instr) (s : State) (m : Pacing),
    i ≠ .reset → i ≠ .statRead 0x02#8 → (∀ v, i ≠ .statValue 0x02#8 v) →
    ¬(i = .dispOk ∧ s.gfe.phase = .render ∧ s.gfe.fault = false ∧ 23#5 ≤ s.gfe.step) →
    exec i (s.withMode m) = mapNext (fun t => t.withMode m) (exec i s)

/-- The diagnostic, answered DISP_OK throughout: FAULT, and the DISPLAY shows the first 16 bytes of DIAG_TEXT on row 0 and
blanks elsewhere, its glyph slots unchanged (42_sequencer.md R107 to R110; 44_environment.md R123). -/
def Obligations.DiagnosticIsShownTruncated : Prop :=
  ∀ s : State, s.gfe.phase = .diag → s.gfe.fault = true → s.gfe.dstep = 0#2 →
    ∃ t, runTokens [.dispOk, .dispOk, .dispOk] s = some t ∧
      t.gfe = { s.gfe with phase := .fault, dstep := 3#2 } ∧
      t.display.slot = s.display.slot ∧
      t.display.cursor = .unspec ∧
      ∀ row col : Nat, row < 2 → col < 16 →
        t.display.cellAt row col =
          match s.cfg.diagText[col]? with
          | some b => if row = 0 then .text b else .blank
          | none => .blank

/-- The four places that `Obligations.ModeDecidesOnlyTheAcknowledgment` shuts out. The completion of a frame under
the two MODEs differs in STATE, OFFSET and the request issued alone (42_sequencer.md R100); CONFIG shows MODE in bit
0 alone, in the answer to its read and where that answer is shown (10_state.md R32; 43_status_port.md R113, R114);
RESET does not look at the MODE sampled before, for it samples anew (70_reset_and_hazards.md R144). The fields `due`
and `emitted` are the model's (log 9, log 11). -/
def Obligations.ModeActsAtCompletionAndShowsInConfig : Prop :=
  ∀ s : State,
    (s.gfe.phase = .render → s.gfe.fault = false → 23#5 ≤ s.gfe.step →
      ∃ t, exec .dispOk (s.withMode .ackPaced) = .next t ∧
        t.gfe.phase = .ack ∧
        t.emitted = s.emitted ++ [.netWrite 0x41#8] ∧
        exec .dispOk (s.withMode .delayPaced) = .next
          { t.withMode .delayPaced with
            gfe := { t.gfe with phase := .accum, offset := 0#6 }
            emitted := s.emitted ++ [.netRead 40#8] }) ∧
    (∀ m : Pacing,
      exec (.statRead 0x02#8) (s.withMode m) = .next
        { s.withMode m with
          due := .status 0x02#8
          emitted := s.emitted ++ [.statValue 0x02#8 (statValue 0x02#8 (s.withMode m).cfg s.gfe)] } ∧
      (∀ k : Nat, 1 ≤ k →
        (statValue 0x02#8 (s.withMode m).cfg s.gfe).getLsbD k = (statValue 0x02#8 s.cfg s.gfe).getLsbD k) ∧
      ((statValue 0x02#8 (s.withMode m).cfg s.gfe).getLsbD 0 = true ↔ m = .ackPaced) ∧
      exec (.statValue 0x02#8 (statValue 0x02#8 (s.withMode m).cfg s.gfe)) (s.withMode m) =
        mapNext (fun t => t.withMode m) (exec (.statValue 0x02#8 (statValue 0x02#8 s.cfg s.gfe)) s) ∧
      exec .reset (s.withMode m) = exec .reset s)
end

