-- ==== Sys2Proof/Laws/Decode.lean ====
section
/-! SUPPORT. Small lemmas of the decoder and the encoder. -/

namespace Sys2Proof

/-- Taking exactly a list's own length from it and what follows gives it back. -/
theorem takeExactly_append (t rest : List Byte) : takeExactly t.length (t ++ rest) = some (t, rest) := by
  induction t with
  | nil => rfl
  | cons b t ih => simp [takeExactly, ih]

/-- What was taken has the length asked for, and stands before the rest. -/
theorem takeExactly_some {n : Nat} {s t rest : List Byte} (h : takeExactly n s = some (t, rest)) :
    t.length = n ∧ t ++ rest = s := by
  induction n generalizing s t with
  | zero => simp_all [takeExactly]
  | succ n ih =>
    cases s with
    | nil => simp [takeExactly] at h
    | cons b s =>
      simp only [takeExactly] at h
      split at h
      · next t' rest' h' =>
        obtain ⟨rfl, rfl⟩ : b :: t' = t ∧ rest' = rest := by simpa using h
        obtain ⟨hl, rfl⟩ := ih h'
        exact ⟨by simp [hl], rfl⟩
      · exact nomatch h

/-- Nothing is taken exactly when s is shorter. -/
theorem takeExactly_none {n : Nat} {s : List Byte} : takeExactly n s = none ↔ s.length < n := by
  induction n generalizing s with
  | zero => simp [takeExactly]
  | succ n ih =>
    cases s with
    | nil => simp [takeExactly]
    | cons b s =>
      have := ih (s := s)
      simp only [takeExactly, List.length_cons]
      split
      · next h' => simp only [h', reduceCtorEq, false_iff] at this ⊢; omega
      · next h' => simp only [h', true_iff] at this ⊢; omega

/-- The tag leads an encoded token. -/
@[simp] theorem encode_head (i : Instr) : encode i = i.tag :: i.payload := rfl

/-- The four bytes of a value give it back (30_encoding.md R65). -/
theorem littleEndian_bytes (v : Word) :
    littleEndian (v.extractLsb' 0 8) (v.extractLsb' 8 8) (v.extractLsb' 16 8) (v.extractLsb' 24 8) = v := by
  apply BitVec.eq_of_toNat_eq
  simp only [littleEndian, BitVec.toNat_append, BitVec.extractLsb'_toNat, Nat.shiftRight_eq_div_pow]
  have hv := v.isLt
  rw [← Nat.shiftLeft_add_eq_or_of_lt (by omega), ← Nat.shiftLeft_add_eq_or_of_lt (by omega),
    ← Nat.shiftLeft_add_eq_or_of_lt (by omega)]
  simp only [Nat.shiftLeft_eq]
  omega

/-- Each format's payload, read back. -/
theorem fieldsF0_some {i j : Instr} {p : List Byte} : fieldsF0 i p = some j ↔ p = [] ∧ j = i := by
  cases p <;> simp [fieldsF0, eq_comm]

theorem fieldsF1_some {mk : Byte → Instr} {j : Instr} {p : List Byte} :
    fieldsF1 mk p = some j ↔ ∃ a, p = [a] ∧ j = mk a := by
  unfold fieldsF1; split <;> simp_all [eq_comm]

theorem fieldsF2_some {mk : Byte → Byte → Instr} {j : Instr} {p : List Byte} :
    fieldsF2 mk p = some j ↔ ∃ a b, p = [a, b] ∧ j = mk a b := by
  unfold fieldsF2; split <;> simp_all [eq_comm]

theorem fieldsF3_some {mk : List Byte → Instr} {j : Instr} {p : List Byte} :
    fieldsF3 mk p = some j ↔ ∃ n d, p = n :: d ∧ j = mk d := by
  cases p <;> simp [fieldsF3, eq_comm]

theorem fieldsF4_some {mk : Byte → RmGlyph → Instr} {j : Instr} {p : List Byte} :
    fieldsF4 mk p = some j ↔ ∃ a, ∃ rows : RmGlyph, p = a :: rows.toList ∧ j = mk a rows := by
  constructor
  · unfold fieldsF4
    split
    · next a d0 d1 d2 d3 d4 d5 d6 d7 =>
      intro h
      exact ⟨a, #v[d0, d1, d2, d3, d4, d5, d6, d7], rfl, by simpa using h.symm⟩
    · exact fun h => (nomatch h)
  · rintro ⟨a, ⟨⟨l⟩, hl⟩, rfl, rfl⟩
    simp only [List.size_toArray] at hl
    match l, hl with
    | [d0, d1, d2, d3, d4, d5, d6, d7], _ => rfl

theorem fieldsF5_some {mk : Byte → Word → Instr} {j : Instr} {p : List Byte} :
    fieldsF5 mk p = some j ↔
      ∃ a v0 v1 v2 v3, p = [a, v0, v1, v2, v3] ∧ j = mk a (littleEndian v0 v1 v2 v3) := by
  unfold fieldsF5; split <;> simp_all [eq_comm]

/-- A value put together from four bytes has those bytes (30_encoding.md R65). -/
theorem bytes_littleEndian (v0 v1 v2 v3 : Byte) :
    (littleEndian v0 v1 v2 v3).extractLsb' 0 8 = v0 ∧ (littleEndian v0 v1 v2 v3).extractLsb' 8 8 = v1 ∧
      (littleEndian v0 v1 v2 v3).extractLsb' 16 8 = v2 ∧ (littleEndian v0 v1 v2 v3).extractLsb' 24 8 = v3 := by
  have h0 := v0.isLt
  have h1 := v1.isLt
  have h2 := v2.isLt
  have h3 := v3.isLt
  refine ⟨?_, ?_, ?_, ?_⟩ <;> apply BitVec.eq_of_toNat_eq <;>
    simp only [littleEndian, BitVec.toNat_append, BitVec.extractLsb'_toNat, Nat.shiftRight_eq_div_pow] <;>
    (rw [← Nat.shiftLeft_add_eq_or_of_lt (by omega), ← Nat.shiftLeft_add_eq_or_of_lt (by omega),
        ← Nat.shiftLeft_add_eq_or_of_lt (by omega)]
     simp only [Nat.shiftLeft_eq]
     omega)

/-- A whole token is assembled from its own tag and payload. -/
theorem assemble_payload (i : Instr) : assemble i.tag i.payload = some i := by
  cases i
  case statValue a v => exact congrArg (fun v => some (Instr.statValue a v)) (littleEndian_bytes v)
  case dispLoadGlyph slot rows => exact fieldsF4_some.2 ⟨slot, rows, rfl, rfl⟩
  all_goals rfl

/-- One branch of a choice that gives a token. -/
theorem ite_some_cases {c : Prop} [Decidable c] {a b : Option Instr} {i : Instr} (h : (if c then a else b) = some i) :
    (c ∧ a = some i) ∨ b = some i := by
  by_cases hc : c
  · exact .inl ⟨hc, by simpa [hc] using h⟩
  · exact .inr (by simpa [hc] using h)

/-- What is assembled has the tag it was assembled from, and its payload but for the count byte of format F3. -/
theorem assemble_some {tag : Byte} {p : List Byte} {i : Instr} (h : assemble tag p = some i) :
    i.tag = tag ∧ (p = i.payload ∨ ∃ n d, p = n :: d ∧ (i = .netData d ∨ i = .dispWriteText d)) := by
  unfold assemble at h
  obtain ⟨rfl, h⟩ | h := ite_some_cases h
  · obtain ⟨hp, rfl⟩ := fieldsF0_some.1 h; exact ⟨rfl, .inl hp⟩
  obtain ⟨rfl, h⟩ | h := ite_some_cases h
  · obtain ⟨_, hp, rfl⟩ := fieldsF1_some.1 h; exact ⟨rfl, .inl hp⟩
  obtain ⟨rfl, h⟩ | h := ite_some_cases h
  · obtain ⟨_, _, _, _, _, hp, rfl⟩ := fieldsF5_some.1 h
    exact ⟨rfl, .inl (by simp [hp, Instr.payload, bytes_littleEndian])⟩
  obtain ⟨rfl, h⟩ | h := ite_some_cases h
  · obtain ⟨hp, rfl⟩ := fieldsF0_some.1 h; exact ⟨rfl, .inl hp⟩
  obtain ⟨rfl, h⟩ | h := ite_some_cases h
  · obtain ⟨_, hp, rfl⟩ := fieldsF1_some.1 h; exact ⟨rfl, .inl hp⟩
  obtain ⟨rfl, h⟩ | h := ite_some_cases h
  · obtain ⟨_, hp, rfl⟩ := fieldsF1_some.1 h; exact ⟨rfl, .inl hp⟩
  obtain ⟨rfl, h⟩ | h := ite_some_cases h
  · obtain ⟨hp, rfl⟩ := fieldsF0_some.1 h; exact ⟨rfl, .inl hp⟩
  obtain ⟨rfl, h⟩ | h := ite_some_cases h
  · obtain ⟨n, d, hp, rfl⟩ := fieldsF3_some.1 h; exact ⟨rfl, .inr ⟨n, d, hp, .inl rfl⟩⟩
  obtain ⟨rfl, h⟩ | h := ite_some_cases h
  · obtain ⟨hp, rfl⟩ := fieldsF0_some.1 h; exact ⟨rfl, .inl hp⟩
  obtain ⟨rfl, h⟩ | h := ite_some_cases h
  · obtain ⟨hp, rfl⟩ := fieldsF0_some.1 h; exact ⟨rfl, .inl hp⟩
  obtain ⟨rfl, h⟩ | h := ite_some_cases h
  · obtain ⟨hp, rfl⟩ := fieldsF0_some.1 h; exact ⟨rfl, .inl hp⟩
  obtain ⟨rfl, h⟩ | h := ite_some_cases h
  · obtain ⟨hp, rfl⟩ := fieldsF0_some.1 h; exact ⟨rfl, .inl hp⟩
  obtain ⟨rfl, h⟩ | h := ite_some_cases h
  · obtain ⟨n, d, hp, rfl⟩ := fieldsF3_some.1 h; exact ⟨rfl, .inr ⟨n, d, hp, .inr rfl⟩⟩
  obtain ⟨rfl, h⟩ | h := ite_some_cases h
  · obtain ⟨_, _, hp, rfl⟩ := fieldsF4_some.1 h; exact ⟨rfl, .inl hp⟩
  obtain ⟨rfl, h⟩ | h := ite_some_cases h
  · obtain ⟨_, _, hp, rfl⟩ := fieldsF2_some.1 h; exact ⟨rfl, .inl hp⟩
  obtain ⟨rfl, h⟩ | h := ite_some_cases h
  · obtain ⟨_, hp, rfl⟩ := fieldsF1_some.1 h; exact ⟨rfl, .inl hp⟩
  obtain ⟨rfl, h⟩ | h := ite_some_cases h
  · obtain ⟨hp, rfl⟩ := fieldsF0_some.1 h; exact ⟨rfl, .inl hp⟩
  obtain ⟨rfl, h⟩ | h := ite_some_cases h
  · obtain ⟨hp, rfl⟩ := fieldsF0_some.1 h; exact ⟨rfl, .inl hp⟩
  exact nomatch h

end Sys2Proof
end

