-- ==== Sys2Proof/Laws/State.lean ====
section
/-! SUPPORT. One lemma per field for every update of State, true by rfl, so that no later proof unfolds an update. -/

namespace Sys2Proof.Machine

variable (s : State)

@[simp] theorem State.withGfe_gfe (g : Gfe) : (s.withGfe g).gfe = g := rfl
@[simp] theorem State.withGfe_cfg (g : Gfe) : (s.withGfe g).cfg = s.cfg := rfl
@[simp] theorem State.withGfe_cfgIn (g : Gfe) : (s.withGfe g).cfgIn = s.cfgIn := rfl
@[simp] theorem State.withGfe_display (g : Gfe) : (s.withGfe g).display = s.display := rfl
@[simp] theorem State.withGfe_peer (g : Gfe) : (s.withGfe g).peer = s.peer := rfl
@[simp] theorem State.withGfe_trace (g : Gfe) : (s.withGfe g).trace = s.trace := rfl
@[simp] theorem State.withGfe_due (g : Gfe) : (s.withGfe g).due = s.due := rfl
@[simp] theorem State.withGfe_emitted (g : Gfe) : (s.withGfe g).emitted = s.emitted := rfl
@[simp] theorem State.withGfe_free (g : Gfe) : (s.withGfe g).free = s.free := rfl

@[simp] theorem State.withDisplay_gfe (d : Display) : (s.withDisplay d).gfe = s.gfe := rfl
@[simp] theorem State.withDisplay_cfg (d : Display) : (s.withDisplay d).cfg = s.cfg := rfl
@[simp] theorem State.withDisplay_cfgIn (d : Display) : (s.withDisplay d).cfgIn = s.cfgIn := rfl
@[simp] theorem State.withDisplay_display (d : Display) : (s.withDisplay d).display = d := rfl
@[simp] theorem State.withDisplay_peer (d : Display) : (s.withDisplay d).peer = s.peer := rfl
@[simp] theorem State.withDisplay_trace (d : Display) : (s.withDisplay d).trace = s.trace := rfl
@[simp] theorem State.withDisplay_due (d : Display) : (s.withDisplay d).due = s.due := rfl
@[simp] theorem State.withDisplay_emitted (d : Display) : (s.withDisplay d).emitted = s.emitted := rfl
@[simp] theorem State.withDisplay_free (d : Display) : (s.withDisplay d).free = s.free := rfl

@[simp] theorem State.withPeer_gfe (p : Peer) : (s.withPeer p).gfe = s.gfe := rfl
@[simp] theorem State.withPeer_cfg (p : Peer) : (s.withPeer p).cfg = s.cfg := rfl
@[simp] theorem State.withPeer_cfgIn (p : Peer) : (s.withPeer p).cfgIn = s.cfgIn := rfl
@[simp] theorem State.withPeer_display (p : Peer) : (s.withPeer p).display = s.display := rfl
@[simp] theorem State.withPeer_peer (p : Peer) : (s.withPeer p).peer = p := rfl
@[simp] theorem State.withPeer_trace (p : Peer) : (s.withPeer p).trace = s.trace := rfl
@[simp] theorem State.withPeer_due (p : Peer) : (s.withPeer p).due = s.due := rfl
@[simp] theorem State.withPeer_emitted (p : Peer) : (s.withPeer p).emitted = s.emitted := rfl
@[simp] theorem State.withPeer_free (p : Peer) : (s.withPeer p).free = s.free := rfl

@[simp] theorem State.withTrace_gfe (t : List Byte) : (s.withTrace t).gfe = s.gfe := rfl
@[simp] theorem State.withTrace_cfg (t : List Byte) : (s.withTrace t).cfg = s.cfg := rfl
@[simp] theorem State.withTrace_cfgIn (t : List Byte) : (s.withTrace t).cfgIn = s.cfgIn := rfl
@[simp] theorem State.withTrace_display (t : List Byte) : (s.withTrace t).display = s.display := rfl
@[simp] theorem State.withTrace_peer (t : List Byte) : (s.withTrace t).peer = s.peer := rfl
@[simp] theorem State.withTrace_trace (t : List Byte) : (s.withTrace t).trace = t := rfl
@[simp] theorem State.withTrace_due (t : List Byte) : (s.withTrace t).due = s.due := rfl
@[simp] theorem State.withTrace_emitted (t : List Byte) : (s.withTrace t).emitted = s.emitted := rfl
@[simp] theorem State.withTrace_free (t : List Byte) : (s.withTrace t).free = s.free := rfl

@[simp] theorem State.driveConfig_gfe (c : Configuration) : (s.driveConfig c).gfe = s.gfe := rfl
@[simp] theorem State.driveConfig_cfg (c : Configuration) : (s.driveConfig c).cfg = s.cfg := rfl
@[simp] theorem State.driveConfig_cfgIn (c : Configuration) : (s.driveConfig c).cfgIn = c := rfl
@[simp] theorem State.driveConfig_display (c : Configuration) : (s.driveConfig c).display = s.display := rfl
@[simp] theorem State.driveConfig_peer (c : Configuration) : (s.driveConfig c).peer = s.peer := rfl
@[simp] theorem State.driveConfig_trace (c : Configuration) : (s.driveConfig c).trace = s.trace := rfl
@[simp] theorem State.driveConfig_due (c : Configuration) : (s.driveConfig c).due = s.due := rfl
@[simp] theorem State.driveConfig_emitted (c : Configuration) : (s.driveConfig c).emitted = s.emitted := rfl
@[simp] theorem State.driveConfig_free (c : Configuration) : (s.driveConfig c).free = s.free := rfl

@[simp] theorem State.issue_gfe : s.issue.gfe = s.gfe := rfl
@[simp] theorem State.issue_cfg : s.issue.cfg = s.cfg := rfl
@[simp] theorem State.issue_cfgIn : s.issue.cfgIn = s.cfgIn := rfl
@[simp] theorem State.issue_display : s.issue.display = s.display := rfl
@[simp] theorem State.issue_peer : s.issue.peer = s.peer := rfl
@[simp] theorem State.issue_trace : s.issue.trace = s.trace := rfl
@[simp] theorem State.issue_due : s.issue.due = if s.request.isSome then .request else .nothing := rfl
@[simp] theorem State.issue_emitted : s.issue.emitted = s.emitted ++ s.request.toList := rfl
@[simp] theorem State.issue_free : s.issue.free = s.free := rfl
@[simp] theorem State.issue_request : s.issue.request = s.request := rfl

@[simp] theorem State.displayUnspecified_gfe : s.displayUnspecified.gfe = s.gfe := rfl
@[simp] theorem State.displayUnspecified_cfg : s.displayUnspecified.cfg = s.cfg := rfl
@[simp] theorem State.displayUnspecified_cfgIn : s.displayUnspecified.cfgIn = s.cfgIn := rfl
@[simp] theorem State.displayUnspecified_display : s.displayUnspecified.display = Config.freeDisplay s.free := rfl
@[simp] theorem State.displayUnspecified_peer : s.displayUnspecified.peer = s.peer := rfl
@[simp] theorem State.displayUnspecified_trace : s.displayUnspecified.trace = s.trace := rfl
@[simp] theorem State.displayUnspecified_due : s.displayUnspecified.due = s.due := rfl
@[simp] theorem State.displayUnspecified_emitted : s.displayUnspecified.emitted = s.emitted := rfl
@[simp] theorem State.displayUnspecified_free : s.displayUnspecified.free = s.free + 1 := rfl
@[simp] theorem State.displayUnspecified_request : s.displayUnspecified.request = s.request := rfl

@[simp] theorem State.abandonCommand_gfe : s.abandonCommand.gfe = s.gfe := by
  unfold State.abandonCommand; split <;> rfl
@[simp] theorem State.abandonCommand_cfg : s.abandonCommand.cfg = s.cfg := by
  unfold State.abandonCommand; split <;> rfl
@[simp] theorem State.abandonCommand_cfgIn : s.abandonCommand.cfgIn = s.cfgIn := by
  unfold State.abandonCommand; split <;> rfl
theorem State.abandonCommand_display :
    s.abandonCommand.display = if s.displayCommandOutstanding then Config.freeDisplay s.free else s.display := by
  unfold State.abandonCommand; split <;> rfl
@[simp] theorem State.abandonCommand_peer : s.abandonCommand.peer = s.peer := by
  unfold State.abandonCommand; split <;> rfl
@[simp] theorem State.abandonCommand_trace : s.abandonCommand.trace = s.trace := by
  unfold State.abandonCommand; split <;> rfl
@[simp] theorem State.abandonCommand_due : s.abandonCommand.due = s.due := by
  unfold State.abandonCommand; split <;> rfl
@[simp] theorem State.abandonCommand_emitted : s.abandonCommand.emitted = s.emitted := by
  unfold State.abandonCommand; split <;> rfl
theorem State.abandonCommand_free :
    s.abandonCommand.free = if s.displayCommandOutstanding then s.free + 1 else s.free := by
  unfold State.abandonCommand; split <;> rfl
@[simp] theorem State.abandonCommand_request : s.abandonCommand.request = s.request := by
  unfold State.abandonCommand; split <;> rfl

@[simp] theorem State.restarted_gfe : s.restarted.gfe = Gfe.afterReset (Config.freeRxbuf s.free) (Config.freeTbuf s.free) := rfl
@[simp] theorem State.restarted_cfg : s.restarted.cfg = s.cfgIn := rfl
@[simp] theorem State.restarted_cfgIn : s.restarted.cfgIn = s.cfgIn := s.abandonCommand_cfgIn
@[simp] theorem State.restarted_display : s.restarted.display = s.abandonCommand.display := rfl
@[simp] theorem State.restarted_peer : s.restarted.peer = Peer.fresh := rfl
@[simp] theorem State.restarted_trace : s.restarted.trace = s.trace := s.abandonCommand_trace
@[simp] theorem State.restarted_due : s.restarted.due = s.due := s.abandonCommand_due
@[simp] theorem State.restarted_emitted : s.restarted.emitted = [] := rfl
@[simp] theorem State.restarted_free : s.restarted.free = s.free + 1 := rfl

@[simp] theorem raiseFault_step (c : Cause) (g : Gfe) : (raiseFault c g).step = g.step := by
  unfold raiseFault; split <;> (try split) <;> rfl
@[simp] theorem raiseFault_offset (c : Cause) (g : Gfe) : (raiseFault c g).offset = g.offset := by
  unfold raiseFault; split <;> (try split) <;> rfl
@[simp] theorem raiseFault_frames (c : Cause) (g : Gfe) : (raiseFault c g).frames = g.frames := by
  unfold raiseFault; split <;> (try split) <;> rfl
@[simp] theorem raiseFault_rxbuf (c : Cause) (g : Gfe) : (raiseFault c g).rxbuf = g.rxbuf := by
  unfold raiseFault; split <;> (try split) <;> rfl
@[simp] theorem raiseFault_tbuf (c : Cause) (g : Gfe) : (raiseFault c g).tbuf = g.tbuf := by
  unfold raiseFault; split <;> (try split) <;> rfl

@[simp] theorem enterAccum_phase (g : Gfe) : (enterAccum g).phase = Phase.accum := rfl
@[simp] theorem enterAccum_step (g : Gfe) : (enterAccum g).step = 0#5 := rfl
@[simp] theorem enterAccum_dstep (g : Gfe) : (enterAccum g).dstep = g.dstep := rfl
@[simp] theorem enterAccum_offset (g : Gfe) : (enterAccum g).offset = 0#6 := rfl
@[simp] theorem enterAccum_fault (g : Gfe) : (enterAccum g).fault = g.fault := rfl
@[simp] theorem enterAccum_cause (g : Gfe) : (enterAccum g).cause = g.cause := rfl
@[simp] theorem enterAccum_frames (g : Gfe) : (enterAccum g).frames = g.frames := rfl
@[simp] theorem enterAccum_rxbuf (g : Gfe) : (enterAccum g).rxbuf = g.rxbuf := rfl
@[simp] theorem enterAccum_tbuf (g : Gfe) : (enterAccum g).tbuf = g.tbuf := rfl

end Sys2Proof.Machine
end

