-- ==== Sys2Proof/Laws/Ops.lean ====
section
/-! SUPPORT. For each shared operation, once, everything it can do; later proofs cite these instead of unfolding it. -/

namespace Sys2Proof.Machine

/-- `MemRead` byte by byte (00_scope.md R11). -/
@[simp] theorem memRead_get {m n : Nat} (b : Vector Byte m) (a i : Nat) (h : i < n) :
    (memRead b a n)[i] = b[a + i]?.getD 0#8 := by
  simp [memRead]

/-- `MemWrite` byte by byte: inside the written range the new bytes in order, outside it the old ones (00_scope.md R11). -/
theorem memWrite_get {m : Nat} (b : Vector Byte m) (a : Nat) (v : List Byte) (i : Nat) (h : i < m) :
    (memWrite b a v)[i] = if a ≤ i ∧ i < a + v.length then v[i - a]?.getD 0#8 else b[i] := by
  simp [memWrite]

/-- `MemWrite` leaves every byte outside the written range. -/
theorem memWrite_frame {m : Nat} (b : Vector Byte m) (a : Nat) (v : List Byte) (i : Nat) (h : i < m)
    (out : ¬(a ≤ i ∧ i < a + v.length)) : (memWrite b a v)[i] = b[i] := by
  rw [memWrite_get, if_neg out]

/-- A glyph's bytes in the record (20_memory.md R37). -/
theorem glyphAt_get (rxbuf : Vector Byte 40) (g c : Nat) (hg : g < 8) (hc : c < 5) :
    (glyphAt rxbuf g)[c] = rxbuf[5 * g + c] := by
  simp [glyphAt, show 5 * g + c < 40 by omega]

/-- The fault latch on an unlatched S: FAULT and CAUSE are set, and CAUSE 6 alone goes to DIAG (60_exceptions.md R130). -/
theorem raiseFault_cases (c : Cause) (g : Gfe) (h : g.fault = false) :
    (c = .displayError ∧ raiseFault c g = { g with fault := true, cause := c, phase := .diag, dstep := 0#2 }) ∨
    (c ≠ .displayError ∧ raiseFault c g = { g with fault := true, cause := c, phase := .fault }) := by
  by_cases hc : c = .displayError
  · exact .inl ⟨hc, by simp [raiseFault, h, hc]⟩
  · exact .inr ⟨hc, by simp [raiseFault, h, hc]⟩

/-- A latched S is left as it is (60_exceptions.md R130, R132). -/
theorem raiseFault_latched (c : Cause) (g : Gfe) (h : g.fault = true) : raiseFault c g = g := by
  simp [raiseFault, h]

/-- The latch leaves FAULT = 1. -/
@[simp] theorem raiseFault_fault (c : Cause) (g : Gfe) : (raiseFault c g).fault = true := by
  unfold raiseFault
  split
  · assumption
  · split <;> rfl

/-- A fault other than the display error leaves no request outstanding (41_framer.md R90 (b)). -/
theorem request_raiseFault (c : Cause) (g : Gfe) (cfg : Configuration) (h : g.fault = false) (hc : c ≠ .displayError) :
    request cfg (raiseFault c g) = none := by
  simp [raiseFault, h, hc, request]

/-- Taking a fault answers a next state, the latch applied and the next request issued. -/
theorem takeFault_next (c : Cause) (s t : State) (h : takeFault c s = .next t) :
    t = (s.withGfe (raiseFault c s.gfe)).issue := by
  simpa [takeFault] using h.symm

/-- A violation answers a next state: the latch applied to S, an outstanding display command abandoned. -/
theorem violation_next (s t : State) (h : violation s = .next t) :
    t = (s.abandonCommand.withGfe (raiseFault .protocolViolation s.gfe)).issue := by
  simpa using takeFault_next _ _ _ h

/-- Showing a request answers a next state exactly when it is due, and then only clears that (log 9). -/
theorem showRequest_next (q : Instr) (s t : State) :
    showRequest q s = .next t ↔ s.due = .request ∧ s.request = some q ∧ t = { s with due := .nothing } := by
  unfold showRequest
  split
  · next h => exact ⟨fun e => ⟨h.1, h.2, by simpa using e.symm⟩, fun e => by rw [e.2.2]⟩
  · next h => exact ⟨fun e => (nomatch e), fun e => absurd ⟨e.1, e.2.1⟩ h⟩

/-- Showing a request never stops in a fault, and refuses by one name. -/
theorem showRequest_refused (q : Instr) (s : State) (h : ¬(s.due = .request ∧ s.request = some q)) :
    showRequest q s = .refused .notEmitted := by
  simp [showRequest, h]

/-- A fetched token is the decoded head of the trace. -/
theorem fetch_token (s : State) (i : Instr) (rest : List Byte) :
    fetch s = .token i rest ↔ decode s.trace = .ok (i, rest) := by
  unfold fetch
  split
  · next h => simp [h, decode]
  · next b tail h =>
    rw [h]
    split
    · next h' => simp [h']
    · next h' => simp [h']
    · next h' => simp [h']

/-- Without a token left the machine is held or finished (44_environment.md R127). -/
theorem fetch_empty (s : State) (h : s.trace = []) :
    fetch s = .stop (if s.request.isSome then .held else .finished) := by
  simp [fetch, h]

/-- A step of the machine that answers a next state ran the decoded head of the trace. -/
theorem step_next (s t : State) (h : step s = .next t) :
    ∃ i rest, decode s.trace = .ok (i, rest) ∧ exec i (s.withTrace rest) = .next t := by
  unfold step at h
  split at h
  · next i rest hf => exact ⟨i, rest, (fetch_token s i rest).1 hf, h⟩
  · exact nomatch h
  · exact nomatch h

/-- Runs compose. -/
theorem runTokens_append (is js : List Instr) (s : State) :
    runTokens (is ++ js) s = (runTokens is s).bind (runTokens js) := by
  induction is generalizing s with
  | nil => rfl
  | cons i is ih =>
    simp only [List.cons_append, runTokens]
    split <;> simp [ih]

/-- A cell of the 16 × 2 display after every cell has been replaced (44_environment.md R123). -/
theorem cellAt_mapCells (d : Display) (f : Nat → Nat → CellContent → CellContent) (row col : Nat) (hr : row < 2)
    (hc : col < 16) : (d.mapCells f).cellAt row col = f row col (d.cellAt row col) := by
  simp [Display.mapCells, Display.cellAt, hr, hc]

/-- The cursor is no part of a cell. -/
@[simp] theorem cellAt_cursor (d : Display) (k : Cursor) (row col : Nat) :
    Display.cellAt { d with cursor := k } row col = d.cellAt row col := rfl

/-- Replacing cells leaves the glyph slots alone. -/
@[simp] theorem mapCells_slot (d : Display) (f : Nat → Nat → CellContent → CellContent) :
    (d.mapCells f).slot = d.slot := rfl

end Sys2Proof.Machine
end

