-- ==== Sys2Proof/Laws/Exec.lean ====
section
/-! SUPPORT. Everything a token can do when exec answers a next state, said once: to S (`GfeMove`), to what is emitted
(`Emits`), and, for RESET, to the whole state. Later proofs go by these cases and do not unfold exec. -/

namespace Sys2Proof.Machine

/-- What a token other than RESET does to S: one case per accepting arm of 42_sequencer.md R92, one for every violation (60_exceptions.md
R131), one for everything that leaves S alone. -/
inductive GfeMove (c : Configuration) (i : Instr) (g : Gfe) : Gfe → Prop where
  | same : g.fault = true ∨ isResponse i = false → GfeMove c i g g
  | violation : g.fault = false → isResponse i = true → acceptedIn g.phase i = false →
      GfeMove c i g (raiseFault .protocolViolation g)
  | accepted : g.fault = false → g.phase = .listen → i = .netAccepted → GfeMove c i g (enterAccum g)
  | endOfStream : g.fault = false → g.phase = .accum → i = .netData [] →
      GfeMove c i g (raiseFault (if g.offset = 0#6 then .eofAtBoundary else .eofMidFrame) g)
  | bytes (d : List Byte) : g.fault = false → g.phase = .accum → i = .netData d → 1 ≤ d.length → d.length ≤ g.need →
      GfeMove c i g (acceptBytes d g)
  | overrun (d : List Byte) : g.fault = false → g.phase = .accum → i = .netData d → g.need < d.length →
      GfeMove c i g (raiseFault .rxOverrun g)
  | readError : g.fault = false → g.phase = .accum → i = .netReadErr → GfeMove c i g (raiseFault .netReadError g)
  | rendered : g.fault = false → g.phase = .render → i = .dispOk → GfeMove c i g (renderNext c g)
  | displayError : g.fault = false → g.phase = .render → i = .dispErr → GfeMove c i g (raiseFault .displayError g)
  | diagnosed : g.fault = true → g.phase = .diag → i = .dispOk → GfeMove c i g (diagNext g)
  | abandoned : g.fault = true → g.phase = .diag → i = .dispErr → GfeMove c i g { g with phase := .fault }
  | acknowledged : g.fault = false → g.phase = .ack → i = .netWriteDone → GfeMove c i g (enterAccum g)
  | ackError : g.fault = false → g.phase = .ack → i = .netWriteErr → GfeMove c i g (raiseFault .ackWriteError g)

/-- What a token other than RESET makes the GFE emit: nothing, with S unchanged; the answer to a status read; or, after a
response that is not ignored, the next request; LISTEN is never entered. -/
inductive Emits (i : Instr) (s t : State) : Prop where
  | nothing : t.gfe = s.gfe → t.emitted = s.emitted → Emits i s t
  | status (a : Byte) : i = .statRead a → t.gfe = s.gfe →
      t.emitted = s.emitted ++ [.statValue a (statValue a s.cfg s.gfe)] → Emits i s t
  | next : isResponse i = true → (s.gfe.fault = true → s.gfe.phase = .diag) → t.gfe.phase ≠ .listen →
      t.emitted = s.emitted ++ (request s.cfg t.gfe).toList → Emits i s t

/-- What a token other than RESET does to the DISPLAY: nothing; the effect of the command that DISP_OK answers; or an
unspecified state, once a command has failed or will never be answered, with FAULT = 1. -/
inductive DisplayMove (i : Instr) (s t : State) : Prop where
  | same : t.display = s.display → DisplayMove i s t
  | completed : i = .dispOk → t.display = s.displayAfterOk → DisplayMove i s t
  | unspecified : t.gfe.fault = true → t.gfe.phase = .diag ∨ t.gfe.phase = .fault → DisplayMove i s t

/-- Everything a token other than RESET can do. -/
structure ExecNext (i : Instr) (s t : State) : Prop where
  move : GfeMove s.cfg i s.gfe t.gfe
  display : DisplayMove i s t
  emits : Emits i s t
  cfg : t.cfg = s.cfg
  cfgIn : t.cfgIn = s.cfgIn
  trace : t.trace = s.trace

/-- The latch leaves DIAG or FAULT. -/
theorem raiseFault_phase (c : Cause) (g : Gfe) (f : g.fault = false) :
    (raiseFault c g).phase = .diag ∨ (raiseFault c g).phase = .fault := by
  obtain ⟨-, h⟩ | ⟨-, h⟩ := raiseFault_cases c g f
  · exact .inl (by rw [h])
  · exact .inr (by rw [h])

/-- A non-empty read stays in ACCUM or starts RENDER (41_framer.md R85). -/
theorem acceptBytes_phase (d : List Byte) (g : Gfe) (h : g.phase = .accum) : (acceptBytes d g).phase ≠ .listen := by
  unfold acceptBytes
  dsimp only
  split <;> simp [h]

/-- A completed display command stays in RENDER, or goes to ACK or ACCUM (42_sequencer.md R99, R100). -/
theorem renderNext_phase (c : Configuration) (g : Gfe) (h : g.phase = .render) : (renderNext c g).phase ≠ .listen := by
  unfold renderNext renderDone
  dsimp only
  split <;> split <;> simp [h]

/-- A completed display command by STEP: loads 0 to 6 transpose the next glyph, command 23 completes the frame
(42_sequencer.md R95 (b), R99, R100). -/
theorem renderNext_cases (c : Configuration) (g : Gfe) :
    (g.step.toNat ≤ 6 →
      renderNext c g = { g with step := g.step + 1#5, tbuf := transpose (glyphAt g.rxbuf (g.step.toNat + 1)) }) ∧
    (6 < g.step.toNat → g.step.toNat < 23 → renderNext c g = { g with step := g.step + 1#5 }) ∧
    (23 ≤ g.step.toNat → renderNext c g = renderDone c g) := by
  refine ⟨fun h => ?_, fun h h' => ?_, fun h => ?_⟩
  · simp [renderNext, h, show g.step.toNat < 23 by omega]
  · simp [renderNext, show ¬g.step.toNat ≤ 6 by omega, h']
  · simp [renderNext, show ¬g.step.toNat ≤ 6 by omega, show ¬g.step.toNat < 23 by omega]

/-- A completed diagnostic command stays in DIAG or goes to FAULT (42_sequencer.md R110). -/
theorem diagNext_phase (g : Gfe) (h : g.phase = .diag) : (diagNext g).phase ≠ .listen := by
  unfold diagNext
  dsimp only
  split <;> simp [h]

/-- Taking a fault, as a case of `ExecNext`. -/
theorem takeFault_execNext {i : Instr} {c : Cause} {s u t : State} (h : takeFault c u = .next t)
    (hg : u.gfe = s.gfe) (hc : u.cfg = s.cfg) (hin : u.cfgIn = s.cfgIn) (ht : u.trace = s.trace)
    (he : u.emitted = s.emitted) (hr : isResponse i = true) (f : s.gfe.fault = false) (m : GfeMove s.cfg i s.gfe (raiseFault c s.gfe)) :
    ExecNext i s t := by
  rw [takeFault_next c u t h]
  refine ⟨by simpa [hg] using m,
    .unspecified (by simp) (by simpa [hg] using raiseFault_phase c s.gfe f),
    .next hr (by simp [f]) ?_ ?_, by simp [hc], by simp [hin], by simp [ht]⟩
  · rcases raiseFault_phase c s.gfe f with h | h <;> simp [hg, h]
  · simp [State.request, he, hc]

/-- A violation, as a case of `ExecNext`. -/
theorem violation_execNext {i : Instr} {s t : State} (h : violation s = .next t) (f : s.gfe.fault = false)
    (hr : isResponse i = true) (ha : acceptedIn s.gfe.phase i = false) : ExecNext i s t :=
  takeFault_execNext h (by simp) (by simp) (by simp) (by simp) (by simp) hr f
    (.violation f hr ha)

/-- An ignored response, as a case of `ExecNext`. -/
theorem ignored_execNext {i : Instr} {s t : State} (h : ignored s = .next t) (f : s.gfe.fault = true) :
    ExecNext i s t := by
  obtain rfl : s = t := by simpa [ignored] using h
  exact ⟨.same (.inl f), .same rfl, .nothing rfl rfl, rfl, rfl, rfl⟩

/-- Showing a request, as a case of `ExecNext`. -/
theorem showRequest_execNext {i q : Instr} {s t : State} (h : showRequest q s = .next t) (hr : isResponse i = false) :
    ExecNext i s t := by
  obtain ⟨-, -, rfl⟩ := (showRequest_next q s t).1 h
  exact ⟨.same (.inr hr), .same rfl, .nothing rfl rfl, rfl, rfl, rfl⟩

/-- NET_ACCEPTED. -/
theorem execNetAccepted_next {s t : State} (h : execNetAccepted s = .next t) : ExecNext .netAccepted s t := by
  unfold execNetAccepted at h
  split at h
  · next f => exact ignored_execNext h f
  · next f =>
    have f : s.gfe.fault = false := by simpa using f
    cases hp : s.gfe.phase <;> simp only [hp] at h
    case listen =>
      obtain rfl : _ = t := by simpa using h
      exact ⟨.accepted f hp rfl, .same rfl, .next rfl (by simp [f]) (by simp) rfl, rfl, rfl, rfl⟩
    all_goals exact violation_execNext h f rfl (by rw [hp]; rfl)

/-- NET_DATA. -/
theorem execNetData_next {d : List Byte} {s t : State} (h : execNetData d s = .next t) : ExecNext (.netData d) s t := by
  unfold execNetData at h
  split at h
  · next f => exact ignored_execNext h f
  · next f =>
    have f : s.gfe.fault = false := by simpa using f
    cases hp : s.gfe.phase <;> simp only [hp] at h
    case accum =>
      unfold receive at h
      split at h
      · next h0 =>
        obtain rfl : d = [] := by simpa using h0
        exact takeFault_execNext h rfl rfl rfl rfl rfl rfl f (.endOfStream f hp rfl)
      · next h0 =>
        split at h
        · next h1 =>
          obtain rfl : _ = t := by simpa using h
          exact ⟨.bytes d f hp rfl (by omega) h1, .same rfl,
            .next rfl (by simp [f]) (by simpa using acceptBytes_phase d s.gfe hp) rfl, rfl, rfl, rfl⟩
        · exact takeFault_execNext h rfl rfl rfl rfl rfl rfl f (.overrun d f hp rfl (by omega))
    all_goals exact violation_execNext h f rfl (by rw [hp]; rfl)

/-- NET_READ_ERR. -/
theorem execNetReadErr_next {s t : State} (h : execNetReadErr s = .next t) : ExecNext .netReadErr s t := by
  unfold execNetReadErr at h
  split at h
  · next f => exact ignored_execNext h f
  · next f =>
    have f : s.gfe.fault = false := by simpa using f
    cases hp : s.gfe.phase <;> simp only [hp] at h
    case accum => exact takeFault_execNext h rfl rfl rfl rfl rfl rfl f (.readError f hp rfl)
    all_goals exact violation_execNext h f rfl (by rw [hp]; rfl)

/-- NET_WRITE_DONE. -/
theorem execNetWriteDone_next {s t : State} (h : execNetWriteDone s = .next t) : ExecNext .netWriteDone s t := by
  unfold execNetWriteDone at h
  split at h
  · next f => exact ignored_execNext h f
  · next f =>
    have f : s.gfe.fault = false := by simpa using f
    cases hp : s.gfe.phase <;> simp only [hp] at h
    case ack =>
      obtain rfl : _ = t := by simpa using h
      exact ⟨.acknowledged f hp rfl, .same rfl, .next rfl (by simp [f]) (by simp) rfl, rfl, rfl, rfl⟩
    all_goals exact violation_execNext h f rfl (by rw [hp]; rfl)

/-- NET_WRITE_ERR. -/
theorem execNetWriteErr_next {s t : State} (h : execNetWriteErr s = .next t) : ExecNext .netWriteErr s t := by
  unfold execNetWriteErr at h
  split at h
  · next f => exact ignored_execNext h f
  · next f =>
    have f : s.gfe.fault = false := by simpa using f
    cases hp : s.gfe.phase <;> simp only [hp] at h
    case ack => exact takeFault_execNext h rfl rfl rfl rfl rfl rfl f (.ackError f hp rfl)
    all_goals exact violation_execNext h f rfl (by rw [hp]; rfl)

/-- DISP_OK. -/
theorem execDispOk_next {s t : State} (h : execDispOk s = .next t) : ExecNext .dispOk s t := by
  unfold execDispOk at h
  split at h
  · next f =>
    cases hp : s.gfe.phase <;> simp only [hp] at h
    case diag =>
      obtain rfl : _ = t := by simpa using h
      exact ⟨.diagnosed f hp rfl, .completed rfl rfl,
        .next rfl (fun _ => hp) (by simpa using diagNext_phase s.gfe hp) rfl, rfl, rfl, rfl⟩
    all_goals exact ignored_execNext h f
  · next f =>
    have f : s.gfe.fault = false := by simpa using f
    cases hp : s.gfe.phase <;> simp only [hp] at h
    case render =>
      obtain rfl : _ = t := by simpa using h
      exact ⟨.rendered f hp rfl, .completed rfl rfl,
        .next rfl (by simp [f]) (by simpa using renderNext_phase s.cfg s.gfe hp) rfl, rfl, rfl, rfl⟩
    all_goals exact violation_execNext h f rfl (by rw [hp]; rfl)

/-- DISP_ERR. -/
theorem execDispErr_next {s t : State} (h : execDispErr s = .next t) : ExecNext .dispErr s t := by
  unfold execDispErr at h
  split at h
  · next f =>
    cases hp : s.gfe.phase <;> simp only [hp] at h
    case diag =>
      obtain rfl : _ = t := by simpa using h
      exact ⟨.abandoned f hp rfl, .unspecified f (.inr rfl), .next rfl (fun _ => hp) (by simp) rfl, rfl, rfl, rfl⟩
    all_goals exact ignored_execNext h f
  · next f =>
    have f : s.gfe.fault = false := by simpa using f
    cases hp : s.gfe.phase <;> simp only [hp] at h
    case render =>
      exact takeFault_execNext h (by simp) (by simp) (by simp) (by simp) (by simp) rfl f (.displayError f hp rfl)
    all_goals exact violation_execNext h f rfl (by rw [hp]; rfl)

/-- STAT_VALUE answers a next state exactly when it is due, and then only clears that (43_status_port.md R114). -/
theorem execStatValue_next (a : Byte) (v : Word) (s t : State) :
    execStatValue a v s = .next t ↔
      s.due = .status a ∧ v = statValue a s.cfg s.gfe ∧ t = { s with due := .nothing } := by
  unfold execStatValue
  split
  · next h => exact ⟨fun e => ⟨h.1, h.2, by simpa using e.symm⟩, fun e => by rw [e.2.2]⟩
  · next h => exact ⟨fun e => (nomatch e), fun e => absurd ⟨e.1, e.2.1⟩ h⟩

/-- Every token but RESET, by the cases of `ExecNext`. -/
theorem exec_next {i : Instr} {s t : State} (hi : i ≠ .reset) (h : exec i s = .next t) : ExecNext i s t := by
  cases i with
  | reset => exact absurd rfl hi
  | statRead a =>
    obtain rfl : _ = t := by simpa [exec, execStatRead] using h
    exact ⟨.same (.inr rfl), .same rfl, .status a rfl rfl rfl, rfl, rfl, rfl⟩
  | statValue a v =>
    obtain ⟨-, -, rfl⟩ := (execStatValue_next a v s t).1 h
    exact ⟨.same (.inr rfl), .same rfl, .nothing rfl rfl, rfl, rfl, rfl⟩
  | netAccept => exact showRequest_execNext h rfl
  | netRead need => exact showRequest_execNext h rfl
  | netWrite b => exact showRequest_execNext h rfl
  | netAccepted => exact execNetAccepted_next h
  | netData d => exact execNetData_next h
  | netReadErr => exact execNetReadErr_next h
  | netWriteDone => exact execNetWriteDone_next h
  | netWriteErr => exact execNetWriteErr_next h
  | dispClear => exact showRequest_execNext h rfl
  | dispWriteText t => exact showRequest_execNext h rfl
  | dispLoadGlyph slot rows => exact showRequest_execNext h rfl
  | dispMoveCursor col row => exact showRequest_execNext h rfl
  | dispWriteChar code => exact showRequest_execNext h rfl
  | dispOk => exact execDispOk_next h
  | dispErr => exact execDispErr_next h

/-- RESET answers a next state exactly with a legal configuration at its inputs, and then restarts (70_reset_and_hazards.md
R143, R144). -/
theorem execReset_next (s t : State) :
    execReset s = .next t ↔ s.cfgIn.legal = true ∧ t = s.restarted.issue := by
  unfold execReset
  split
  · next h => exact ⟨fun e => ⟨h, by simpa using e.symm⟩, fun e => by rw [e.2]⟩
  · next h => exact ⟨fun e => (nomatch e), fun e => absurd e.1 h⟩

end Sys2Proof.Machine
end

