-- ==== Sys2Proof/Laws/PerInstr.lean ====
section
/-! SUPPORT. Statements made once per constructor of Instr: the tag map gives each token its format and direction, and the
length decoding gives each encoded token its length (30_encoding.md R61, R62, R68). -/

namespace Sys2Proof.Laws.TagMap

/-- The tag map of 30_encoding.md R62 has the token's tag, with its format and direction. -/
def Statement (i : Instr) : Prop :=
  (rowOfTag i.tag).map (fun r => (r.format, r.direction)) = some (i.format, i.direction)

theorem reset : Statement .reset := rfl
theorem statRead (a : Byte) : Statement (.statRead a) := rfl
theorem statValue (a : Byte) (v : Word) : Statement (.statValue a v) := rfl
theorem netAccept : Statement .netAccept := rfl
theorem netRead (need : Byte) : Statement (.netRead need) := rfl
theorem netWrite (b : Byte) : Statement (.netWrite b) := rfl
theorem netAccepted : Statement .netAccepted := rfl
theorem netData (d : List Byte) : Statement (.netData d) := rfl
theorem netReadErr : Statement .netReadErr := rfl
theorem netWriteDone : Statement .netWriteDone := rfl
theorem netWriteErr : Statement .netWriteErr := rfl
theorem dispClear : Statement .dispClear := rfl
theorem dispWriteText (t : List Byte) : Statement (.dispWriteText t) := rfl
theorem dispLoadGlyph (slot : Byte) (rows : RmGlyph) : Statement (.dispLoadGlyph slot rows) := rfl
theorem dispMoveCursor (col row : Byte) : Statement (.dispMoveCursor col row) := rfl
theorem dispWriteChar (code : Byte) : Statement (.dispWriteChar code) := rfl
theorem dispOk : Statement .dispOk := rfl
theorem dispErr : Statement .dispErr := rfl

end Sys2Proof.Laws.TagMap

namespace Sys2Proof.Laws.TokenLength

/-- The length decoding of 30_encoding.md R68 finds the end of an encoded token whatever follows it. -/
def Statement (i : Instr) : Prop :=
  wellFormed i = true → ∀ rest, tokenLength (encode i ++ rest) = .ok (encode i).length

/-- The count byte of format F3 gives a list's length back. -/
theorem count_length (d : List Byte) (h : fitsCount d = true) : 2 + (BitVec.ofNat 8 d.length).toNat = d.length + 1 + 1 := by
  have : d.length ≤ 255 := by simpa [fitsCount] using h
  simp only [BitVec.toNat_ofNat]
  omega

theorem reset : Statement .reset := fun _ _ => rfl
theorem statRead (a : Byte) : Statement (.statRead a) := fun _ _ => rfl
theorem statValue (a : Byte) (v : Word) : Statement (.statValue a v) := fun _ _ => rfl
theorem netAccept : Statement .netAccept := fun _ _ => rfl
theorem netRead (need : Byte) : Statement (.netRead need) := fun _ _ => rfl
theorem netWrite (b : Byte) : Statement (.netWrite b) := fun _ _ => rfl
theorem netAccepted : Statement .netAccepted := fun _ _ => rfl
theorem netData (d : List Byte) : Statement (.netData d) := fun h _ => congrArg Except.ok (count_length d h)
theorem netReadErr : Statement .netReadErr := fun _ _ => rfl
theorem netWriteDone : Statement .netWriteDone := fun _ _ => rfl
theorem netWriteErr : Statement .netWriteErr := fun _ _ => rfl
theorem dispClear : Statement .dispClear := fun _ _ => rfl
theorem dispWriteText (t : List Byte) : Statement (.dispWriteText t) := fun h _ => congrArg Except.ok (count_length t h)
theorem dispLoadGlyph (slot : Byte) (rows : RmGlyph) : Statement (.dispLoadGlyph slot rows) :=
  fun _ _ => congrArg Except.ok (by simp [encode, Instr.payload])
theorem dispMoveCursor (col row : Byte) : Statement (.dispMoveCursor col row) := fun _ _ => rfl
theorem dispWriteChar (code : Byte) : Statement (.dispWriteChar code) := fun _ _ => rfl
theorem dispOk : Statement .dispOk := fun _ _ => rfl
theorem dispErr : Statement .dispErr := fun _ _ => rfl

end Sys2Proof.Laws.TokenLength
end

