-- ==== Sys2Proof/Laws/Transposer.lean ====
section
/-! SUPPORT. The bits of a byte built from a list of bits, and of one output row of TRANSPOSE. -/

namespace Sys2Proof.Machine

/-- A bit of a byte built by setting bits: it was set before, or a listed bit sets it. -/
theorem byteOfBits_foldl (bits : List (Bool × Nat)) (acc : Byte) (i : Nat) :
    (bits.foldl (fun acc p => if p.1 then acc ||| (1#8 <<< p.2) else acc) acc).getLsbD i =
      (acc.getLsbD i || (decide (i < 8) && bits.any (fun p => p.1 && decide (p.2 = i)))) := by
  induction bits generalizing acc with
  | nil => simp
  | cons p bits ih =>
    obtain ⟨b, k⟩ := p
    simp only [List.foldl_cons, List.any_cons]
    rw [ih]
    cases b
    · simp
    · have hb : (1#8 <<< k).getLsbD i = (decide (i < 8) && decide (k = i)) := by
        simp only [BitVec.getLsbD_shiftLeft, BitVec.getLsbD_one]
        by_cases h1 : i < 8 <;> by_cases h2 : i < k <;> by_cases h3 : k = i <;> simp [h1, h2, h3]
        all_goals omega
      simp only [if_true, BitVec.getLsbD_or, hb, Bool.true_and]
      cases acc.getLsbD i <;> cases decide (i < 8) <;> simp

/-- A bit of `byteOfBits`: some listed bit sets it. -/
theorem byteOfBits_bit (bits : List (Bool × Nat)) (i : Nat) :
    bit (byteOfBits bits) i = (decide (i < 8) && bits.any (fun p => p.1 && decide (p.2 = i))) := by
  simp [bit, byteOfBits, byteOfBits_foldl]

end Sys2Proof.Machine
end

