-- ==== Sys2Proof/Machine/Assembly.lean ====
section
/-! DEFINITION. The trace notation (30_encoding.md R72, R73): one token a line, `<dir> MNEMONIC operands ; comment`. It is a
notation for traces; no step of the machine uses it. What R72 does not say of it is log 18. -/

namespace Sys2Proof.Machine

/-- The pieces of a trace line (30_encoding.md R72). -/
inductive Lexeme where
  | name (cs : List Char)
  | number (n : Nat)
  | text (t : List Byte)
  | openList
  | closeList
  | comma
  | mark (d : Direction)
deriving DecidableEq, Repr

/-- Where the reader of a line stands. -/
inductive LexMode where
  | idle
  | word (reversed : List Char)
  | quoted (reversed : List Byte)
  | comment
deriving DecidableEq, Repr

/-- A letter, a digit or an underscore. -/
def isWordChar (c : Char) : Bool := c.isAlphanum || c == '_'

/-- The value of a hexadecimal digit. -/
def hexDigit (c : Char) : Option Nat :=
  if '0' ≤ c ∧ c ≤ '9' then some (c.toNat - '0'.toNat)
  else if 'a' ≤ c ∧ c ≤ 'f' then some (c.toNat - 'a'.toNat + 10)
  else if 'A' ≤ c ∧ c ≤ 'F' then some (c.toNat - 'A'.toNat + 10)
  else none

/-- The number written by digits of a base, most significant first. -/
def digitsValue (base : Nat) (cs : List Char) : Option Nat :=
  cs.foldl
    (fun acc c =>
      match acc, hexDigit c with
      | some n, some d => if d < base then some (n * base + d) else none
      | _, _ => none)
    (some 0)

/-- A word: a number, decimal or hexadecimal with the prefix 0x, or a name (30_encoding.md R72). -/
def wordLexeme : List Char → Option Lexeme
  | [] => none
  | '0' :: 'x' :: c :: cs => (digitsValue 16 (c :: cs)).map .number
  | c :: cs => if c.isDigit then (digitsValue 10 (c :: cs)).map .number else some (.name (c :: cs))

/-- A character read between two pieces. -/
def lexIdle (c : Char) : Option (List Lexeme × LexMode) :=
  if c = ' ' ∨ c = '\t' then some ([], .idle)
  else if c = ';' then some ([], .comment)
  else if c = '[' then some ([.openList], .idle)
  else if c = ']' then some ([.closeList], .idle)
  else if c = ',' then some ([.comma], .idle)
  else if c = '>' then some ([.mark .fromGfe], .idle)
  else if c = '<' then some ([.mark .toGfe], .idle)
  else if c = '"' then some ([], .quoted [])
  else if isWordChar c then some ([], .word [c])
  else none

/-- One character of a line: the pieces it completes and where the reader then stands. -/
def lexChar (m : LexMode) (c : Char) : Option (List Lexeme × LexMode) :=
  match m with
  | .idle => lexIdle c
  | .comment => some ([], .comment)
  | .quoted acc =>
    if c = '"' then some ([.text acc.reverse], .idle)
    else if c.toNat < 128 then some ([], .quoted (BitVec.ofNat 8 c.toNat :: acc))
    else none
  | .word acc =>
    if isWordChar c then some ([], .word (c :: acc))
    else
      match wordLexeme acc.reverse, lexIdle c with
      | some w, some (ls, m') => some (w :: ls, m')
      | _, _ => none

/-- The pieces of a line. -/
def lexFrom (m : LexMode) : List Char → Option (List Lexeme)
  | [] =>
    match m with
    | .idle => some []
    | .comment => some []
    | .word acc => (wordLexeme acc.reverse).map (fun w => [w])
    | .quoted _ => none
  | c :: cs =>
    match lexChar m c with
    | some (ls, m') => (lexFrom m' cs).map (fun rest => ls ++ rest)
    | none => none

/-- An operand of a trace line (30_encoding.md R72, R73). -/
inductive Operand where
  | number (n : Nat)
  | bytes (d : List Byte)
  | text (t : List Byte)
  | name (cs : List Char)
deriving DecidableEq, Repr

/-- The items of a byte list, after its bracket. -/
def listItems : List Lexeme → Option (List Byte × List Lexeme)
  | .number n :: .closeList :: rest => if n < 256 then some ([BitVec.ofNat 8 n], rest) else none
  | .number n :: .comma :: rest =>
    if n < 256 then (listItems rest).map (fun p => (BitVec.ofNat 8 n :: p.1, p.2)) else none
  | _ => none

/-- The operand at the head of a line, and what follows it. -/
def operand : List Lexeme → Option (Operand × List Lexeme)
  | .number n :: rest => some (.number n, rest)
  | .text t :: rest => some (.text t, rest)
  | .name cs :: rest => some (.name cs, rest)
  | .openList :: .closeList :: rest => some (.bytes [], rest)
  | .openList :: rest => (listItems rest).map (fun p => (.bytes p.1, p.2))
  | _ => none

/-- Operands separated by commas; the first argument bounds their number. -/
def operands : Nat → List Lexeme → Option (List Operand)
  | 0, _ => none
  | fuel + 1, ls =>
    match operand ls with
    | none => none
    | some (o, []) => some [o]
    | some (o, .comma :: rest) => (operands fuel rest).map (fun os => o :: os)
    | some (_, _ :: _) => none

/-- A number as a byte operand. -/
def byteOperand (n : Nat) : Option Byte := if n < 256 then some (BitVec.ofNat 8 n) else none

/-- The tag of a mnemonic (30_encoding.md R62). -/
def tagOfMnemonic (m : List Char) : Option Byte :=
  (tagMap.find? (fun r => r.mnemonic.toList == m)).map (fun r => r.tag)

/-- The token of a mnemonic and its operands, in the operand order of 30_encoding.md R72. -/
def tokenOf (m : List Char) (os : List Operand) : Option Instr :=
  match (tagOfMnemonic m).map BitVec.toNat, os with
  | some 0x01, [] => some .reset
  | some 0x02, [.number a] => (byteOperand a).map .statRead
  | some 0x03, [.number a, .number v] =>
    if v < 2 ^ 32 then (byteOperand a).map (fun a => .statValue a (BitVec.ofNat 32 v)) else none
  | some 0x10, [] => some .netAccept
  | some 0x11, [.number n] => (byteOperand n).map .netRead
  | some 0x12, [.number b] => (byteOperand b).map .netWrite
  | some 0x18, [] => some .netAccepted
  | some 0x19, [.bytes d] => some (.netData d)
  | some 0x1A, [] => some .netReadErr
  | some 0x1B, [] => some .netWriteDone
  | some 0x1C, [] => some .netWriteErr
  | some 0x20, [] => some .dispClear
  | some 0x21, [.bytes t] => some (.dispWriteText t)
  | some 0x21, [.text t] => some (.dispWriteText t)
  | some 0x22, [.number slot, .bytes [d0, d1, d2, d3, d4, d5, d6, d7]] =>
    (byteOperand slot).map (fun k => .dispLoadGlyph k #v[d0, d1, d2, d3, d4, d5, d6, d7])
  | some 0x23, [.number col, .number row] =>
    match byteOperand col, byteOperand row with
    | some c, some r => some (.dispMoveCursor c r)
    | _, _ => none
  | some 0x24, [.number code] => (byteOperand code).map .dispWriteChar
  | some 0x28, [] => some .dispOk
  | some 0x29, [] => some .dispErr
  | _, _ => none

/-- The pseudo-token of a name and its operands (30_encoding.md R73). -/
def pseudoOf (m : List Char) (os : List Operand) : Option PseudoToken :=
  match os with
  | [] => if m = "NET_EOF".toList then some .netEof else none
  | [.bytes d] => if m = "NET_RECORD".toList then some (.netRecord d) else none
  | [.name a] =>
    if m = "STAT_READ".toList then
      if a = "STATUS".toList then some .statReadStatus
      else if a = "FRAMES".toList then some .statReadFrames
      else if a = "CONFIG".toList then some .statReadConfig
      else none
    else none
  | _ => none

/-- A token, or the token a pseudo-token expands to (30_encoding.md R72, R73). -/
def lineToken (m : List Char) (os : List Operand) : Option Instr :=
  match tokenOf m os with
  | some i => some i
  | none => (pseudoOf m os).bind PseudoToken.expand

/-- One line of a trace: one token with the mark of its own direction (30_encoding.md R72), or nothing. R72 has one token a
line and does not say whether a line may be blank or hold a comment alone: that such a line is read as no token, and the
trace goes on, is a DESIGN CHOICE (log 18). Any other line is refused; so is a token that no encoding holds (log 18). -/
def assembleLine (cs : List Char) : Option (Option Instr) :=
  match lexFrom .idle cs with
  | none => none
  | some [] => some none
  | some (.mark d :: .name m :: rest) =>
    match (if rest = [] then some [] else operands rest.length rest) with
    | none => none
    | some os =>
      match lineToken m os with
      | none => none
      | some i => if i.direction = d ∧ wellFormed i = true then some (some i) else none
  | some _ => none

/-- A trace, its lines given: the bytes of its tokens with no separators (30_encoding.md R68, R72). -/
def assembleTrace : List (List Char) → Option (List Byte)
  | [] => some []
  | l :: ls =>
    match assembleLine l, assembleTrace ls with
    | some none, some bytes => some bytes
    | some (some i), some bytes => some (encode i ++ bytes)
    | _, _ => none

end Sys2Proof.Machine
end

