-- ==== Sys2Proof/Tests/Slice0.lean ====
section
/-! SUPPORT. Tests of the model against the vectors of 95_test_vectors.md and the tables of 30_encoding.md, and for every
obligation with hypotheses a state that meets them. Expected values are the spec's. -/

namespace Sys2Proof.Tests

open Sys2Proof.Machine

/-! ## Helpers -/

/-- The record ρ of 95_test_vectors.md F2: byte i is i. -/
def rho : Vector Byte 40 := Vector.ofFn (fun i => BitVec.ofNat 8 i.val)

/-- A configuration. -/
def config (mode : Pacing) (baseCol : BitVec 4) (text : List Byte) : Configuration :=
  { mode := mode, baseCol := baseCol, diagText := text, port := 8888#16 }

/-- The text "DISPLAY I/O FAILED", 18 bytes (95_test_vectors.md S4). -/
def longText : List Byte :=
  [0x44, 0x49, 0x53, 0x50, 0x4C, 0x41, 0x59, 0x20, 0x49, 0x2F, 0x4F, 0x20, 0x46, 0x41, 0x49, 0x4C, 0x45, 0x44]

/-- A blank display. -/
def blankDisplay : Display :=
  { slot := Vector.replicate 8 (Vector.replicate 8 0#8), cell := Vector.replicate 2 (Vector.replicate 16 .blank),
    cursor := .unspec }

/-- A machine in LISTEN with RXBUF = ρ, ack-paced, and its request due. -/
def start : State :=
  { State.reset with
    gfe := Gfe.afterReset rho (Vector.replicate 8 0#8)
    cfg := config .ackPaced 0#4 longText
    cfgIn := config .ackPaced 0#4 longText
    display := blankDisplay }

/-- ACCUM with o bytes held. -/
def accum (o : BitVec 6) : State := start.withGfe { start.gfe with phase := .accum, offset := o }

/-- RENDER at step n. -/
def render (n : Nat) : State :=
  start.withGfe
    { start.gfe with
      phase := .render, offset := 40#6, step := BitVec.ofNat 5 n, tbuf := transpose (glyphAt rho (min n 7)) }

/-- ACK after one frame. -/
def ack : State := start.withGfe { start.gfe with phase := .ack, offset := 40#6, frames := 1#32 }

/-- DIAG after a DISP_ERR at step 10, with d diagnostic commands completed. -/
def diag (d : BitVec 2) : State :=
  start.withGfe
    { (render 10).gfe with phase := .diag, fault := true, cause := .displayError, dstep := d }

/-- FAULT by a cause. -/
def faulted (c : Cause) : State := start.withGfe { start.gfe with phase := .fault, fault := true, cause := c }

/-- The same machine, delay-paced. -/
def delay (s : State) : State := s.withMode .delayPaced

/-- A property of the next state, if there is one. -/
def next (r : Result) (f : State → Bool) : Bool :=
  match r with
  | .next s => f s
  | .fault _ => false
  | .refused _ => false

/-- The outcome is the refusal r. -/
def refuses (o : Result) (r : Refusal) : Bool :=
  match o with
  | .next _ => false
  | .fault _ => false
  | .refused r' => decide (r' = r)

/-- The outcome is the stop r. -/
def stops (o : Result) (r : Fault) : Bool :=
  match o with
  | .next _ => false
  | .fault r' => decide (r' = r)
  | .refused _ => false

/-- The next state's STATUS and outstanding request. -/
def gives (i : Instr) (s : State) (status : Word) (q : Option Instr) : Bool :=
  next (exec i s) (fun t => decide (statusWord t.gfe = status ∧ t.request = q))

/-- The decoder reads exactly i from s. -/
def reads (s : List Byte) (i : Instr) : Bool :=
  match decode s with
  | .ok (j, rest) => decide (j = i ∧ rest = [])
  | .error _ => false

/-- The decoder refuses s by the name e. -/
def rejects (s : List Byte) (e : DecodeError) : Bool :=
  match decode s with
  | .ok _ => false
  | .error e' => decide (e' = e)

/-! ## WellFormed: each check refuses an ill-formed term -/

theorem test_wellFormed_refuses_long_data : wellFormed (.netData (List.replicate 256 0#8)) = false := by
  rw [wellFormed, fitsCount, List.length_replicate]; rfl
theorem test_wellFormed_refuses_long_text : wellFormed (.dispWriteText (List.replicate 256 0#8)) = false := by
  rw [wellFormed, fitsCount, List.length_replicate]; rfl
theorem test_wellFormed_takes_full_count :
    wellFormed (.netData (List.replicate 255 0#8)) = true ∧ wellFormed (.dispWriteText (List.replicate 255 0#8)) = true := by
  constructor <;> (rw [wellFormed, fitsCount, List.length_replicate]; rfl)
theorem test_emittable_refuses :
    [Instr.netRead 0, .netRead 41, .netWrite 0x42, .dispWriteText (List.replicate 17 0#8),
      .dispLoadGlyph 8 (Vector.replicate 8 0#8), .dispLoadGlyph 0 #v[0x20, 0, 0, 0, 0, 0, 0, 0], .dispMoveCursor 16 0,
      .dispMoveCursor 0 2, .dispWriteChar 8, .reset, .statRead 0, .netAccepted, .netData [], .netReadErr, .netWriteDone,
      .netWriteErr, .dispOk, .dispErr].any emittable = false := by
  decide

/-! ## Decode: words written out from 30_encoding.md R61 and R62, one for every constructor -/

theorem test_decode_reset : reads [0x01] .reset = true := by decide
theorem test_decode_statRead : reads [0x02, 0x80] (.statRead 0x80) = true := by decide
theorem test_decode_statValue : reads [0x03, 0x00, 0x2D, 0x07, 0x00, 0x80] (.statValue 0 0x8000072D) = true := by decide
theorem test_decode_netAccept : reads [0x10] .netAccept = true := by decide
theorem test_decode_netRead : reads [0x11, 0x1B] (.netRead 27) = true := by decide
theorem test_decode_netWrite : reads [0x12, 0x41] (.netWrite 0x41) = true := by decide
theorem test_decode_netAccepted : reads [0x18] .netAccepted = true := by decide
theorem test_decode_netData : reads [0x19, 0x03, 0xAA, 0xBB, 0xCC] (.netData [0xAA, 0xBB, 0xCC]) = true := by decide
theorem test_decode_netEof : reads [0x19, 0x00] (.netData []) = true := by decide
theorem test_decode_netReadErr : reads [0x1A] .netReadErr = true := by decide
theorem test_decode_netWriteDone : reads [0x1B] .netWriteDone = true := by decide
theorem test_decode_netWriteErr : reads [0x1C] .netWriteErr = true := by decide
theorem test_decode_dispClear : reads [0x20] .dispClear = true := by decide
theorem test_decode_dispWriteText : reads [0x21, 0x03, 0x45, 0x52, 0x52] (.dispWriteText [0x45, 0x52, 0x52]) = true := by
  decide
theorem test_decode_dispLoadGlyph :
    reads [0x22, 0x05, 0x00, 0x00, 0x00, 0x1F, 0x1F, 0x03, 0x0C, 0x15]
      (.dispLoadGlyph 5 #v[0x00, 0x00, 0x00, 0x1F, 0x1F, 0x03, 0x0C, 0x15]) = true := by
  decide
theorem test_decode_dispMoveCursor : reads [0x23, 0x0C, 0x01] (.dispMoveCursor 12 1) = true := by decide
theorem test_decode_dispWriteChar : reads [0x24, 0x07] (.dispWriteChar 7) = true := by decide
theorem test_decode_dispOk : reads [0x28] .dispOk = true := by decide
theorem test_decode_dispErr : reads [0x29] .dispErr = true := by decide

/-- 95_test_vectors.md 2.5: the refused strings. -/
theorem test_decode_refusals :
    [[0x19, 0x03, 0xAA, 0xBB], [0x19], [0x22, 0x03, 0, 0, 0, 0, 0, 0, 0]].all (rejects · .truncated) = true ∧
    [[0x00], [0x2A], [0xFF], [0x04], [0x1D], [0x25]].all (rejects · .unknownTag) = true := by
  decide

/-- 95_test_vectors.md 2.5: `28 28 1B` and `28 13 28`. -/
theorem test_decodeTrace :
    decodeTrace [0x28, 0x28, 0x1B] = ([.dispOk, .dispOk, .netWriteDone], none) ∧
    decodeTrace [0x28, 0x13, 0x28] = ([.dispOk], some (.unknownTag, 1)) := by
  decide

/-- No two rows of the tag map share a tag or a mnemonic (30_encoding.md R62). -/
theorem test_tagMap_rows_differ :
    tagMap.Pairwise (fun r r' => r.tag ≠ r'.tag ∧ r.mnemonic ≠ r'.mnemonic) ∧ tagMap.length = 18 := by
  decide

/-- Words numbered as spec/opcode_table.json numbers them: the first byte lowest. -/
theorem test_decodeTableWord :
    decodeTableWord 16 0x1B11 = some (.netRead 27) ∧ decodeTableWord 48 0x8000072D0003 = some (.statValue 0 0x8000072D) ∧
    decodeTableWord 16 0x0319 = some (.netData [0, 0, 0]) ∧ decodeTableWord 8 0x13 = none := by
  decide

/-! ## The trace notation (30_encoding.md R72, R73) -/

/-- A line of a trace assembles to i. -/
def assembles (l : String) (i : Instr) : Bool := decide (assembleLine l.toList = some (some i))

theorem test_assemble_operands :
    assembles "> NET_READ 40                 ; 11 28" (.netRead 40) = true ∧
    assembles "< NET_DATA [0xEE, 3]" (.netData [0xEE, 3]) = true ∧
    assembles "> STAT_VALUE 0x00, 0x0000285D" (.statValue 0 0x285D) = true ∧
    assembles "> DISP_MOVE_CURSOR 3, 1" (.dispMoveCursor 3 1) = true := by
  decide
theorem test_assemble_text :
    assembles "> DISP_WRITE_TEXT \"ERR\" ; 21 03 45 52 52" (.dispWriteText [0x45, 0x52, 0x52]) = true ∧
    assembles "> DISP_LOAD_GLYPH 0, [0x10, 0, 0, 0, 0, 0, 0, 0]" (.dispLoadGlyph 0 #v[0x10, 0, 0, 0, 0, 0, 0, 0]) = true := by
  decide
theorem test_assemble_pseudo :
    assembles "< NET_EOF" (.netData []) = true ∧ assembles "< STAT_READ FRAMES" (.statRead 1) = true ∧
    assembleLine "< NET_RECORD [1, 2]".toList = none ∧ assembleLine "< NET_READ 40".toList = none := by
  decide
theorem test_assembleTrace :
    assembleTrace ["< RESET ; 01  power-on".toList, "".toList, "> NET_ACCEPT".toList, "< STAT_READ 0x80".toList] =
      some [0x01, 0x10, 0x02, 0x80] := by
  decide

/-! ## The transposer -/

/-- 95_test_vectors.md T1 to T6f. -/
theorem test_transpose_vectors :
    [(#v[0x00, 0x00, 0x00, 0x00, 0x00], (#v[0x00, 0x00, 0x00, 0x00, 0x00, 0x00, 0x00, 0x00] : RmGlyph)),
      (#v[0xFF, 0xFF, 0xFF, 0xFF, 0xFF], #v[0x1F, 0x1F, 0x1F, 0x1F, 0x1F, 0x1F, 0x1F, 0x1F]),
      (#v[0xAA, 0x55, 0xAA, 0x55, 0xAA], #v[0x15, 0x0A, 0x15, 0x0A, 0x15, 0x0A, 0x15, 0x0A]),
      (#v[0xFF, 0x00, 0x00, 0x00, 0x00], #v[0x10, 0x10, 0x10, 0x10, 0x10, 0x10, 0x10, 0x10]),
      (#v[0x01, 0x01, 0x01, 0x01, 0x01], #v[0x00, 0x00, 0x00, 0x00, 0x00, 0x00, 0x00, 0x1F]),
      (#v[0x80, 0x40, 0x20, 0x10, 0x08], #v[0x10, 0x08, 0x04, 0x02, 0x01, 0x00, 0x00, 0x00]),
      (#v[0xFF, 0x81, 0x81, 0x81, 0xFF], #v[0x1F, 0x11, 0x11, 0x11, 0x11, 0x11, 0x11, 0x1F]),
      (#v[0xEA, 0x10, 0x7D, 0x90, 0x69], #v[0x12, 0x15, 0x15, 0x0E, 0x15, 0x04, 0x10, 0x05]),
      (#v[0x41, 0xB2, 0x8D, 0xE1, 0x0E], #v[0x0E, 0x12, 0x0A, 0x08, 0x05, 0x05, 0x09, 0x16]),
      (#v[0xAB, 0x74, 0x4E, 0x9E, 0x53], #v[0x12, 0x0D, 0x18, 0x0B, 0x16, 0x0E, 0x17, 0x11])].all
      (fun p => decide (transpose p.1 = p.2 ∧ untranspose p.2 = p.1)) = true := by
  decide

/-- 95_test_vectors.md E1: one pixel at row 0, column 0. -/
theorem test_compress_single_pixel :
    compress (Vector.ofFn (fun r => Vector.ofFn (fun c => decide (r.val = 0 ∧ c.val = 0)))) = #v[0x80, 0, 0, 0, 0] := by
  decide

/-! ## One step of each instruction -/

theorem test_reset : gives .reset (faulted .rxOverrun) 0x00000000 (some .netAccept) = true := by decide
theorem test_reset_illegal :
    refuses (exec .reset (start.driveConfig (config .delayPaced 13#4 []))) .illegalConfiguration = true := by decide

/-- 95_test_vectors.md V1: the answers to STAT_READ STATUS. -/
theorem test_statRead_status :
    [(start, 0x00000000#32), (accum 0, 0x00000001), (accum 13, 0x00000D01), (render 0, 0x00002802), (render 17, 0x00112802),
      (ack, 0x00002803), (diag 0, 0x000A286C), (faulted .protocolViolation, 0x0000007D)].all
      (fun p => next (exec (.statRead 0) p.1)
        (fun t => decide (t.emitted.getLast? = some (.statValue 0 p.2) ∧ t.gfe = p.1.gfe))) = true := by
  decide

/-- 95_test_vectors.md V2: CONFIG and reserved addresses. -/
theorem test_statRead_config :
    statValue 2 (config .delayPaced 12#4 []) start.gfe = 0xC0 ∧ statValue 2 (config .ackPaced 5#4 []) start.gfe = 0x51 ∧
    [0x03, 0x80, 0xFF].all (fun a => decide (statValue a (config .ackPaced 12#4 []) (render 9).gfe = 0)) = true := by
  decide
theorem test_statValue :
    next (exec (.statValue 0 0x2803) (ack.withGfe ack.gfe)) (fun _ => true) = false ∧
    next (exec (.statRead 0) ack) (fun t => next (exec (.statValue 0 0x2803) t) (fun u => decide (u.due = .nothing))) = true := by
  decide

/-- The request of LISTEN is shown right after power-on. -/
theorem test_netAccept_after_powerOn : next (exec .netAccept State.reset) (fun t => decide (t.due = .nothing)) = true := by
  decide

/-- 95_test_vectors.md F1. -/
theorem test_netRead_need :
    [(0#6, 0x28#8), (1, 0x27), (7, 0x21), (13, 0x1B), (20, 0x14), (38, 0x02), (39, 0x01)].all
      (fun p => next (exec (.netRead p.2) (accum p.1)) (fun _ => true)) = true ∧
    refuses (exec (.netRead 0) (accum 39)) .notEmitted = true := by
  decide
theorem test_netWrite : next (exec (.netWrite 0x41) ack) (fun _ => true) = true := by decide
theorem test_netAccepted : gives .netAccepted start 0x00000001 (some (.netRead 40)) = true := by decide
theorem test_netAccepted_unasked : gives .netAccepted (accum 0) 0x0000007D none = true := by decide

/-- 95_test_vectors.md F3 and F4: end of stream, overrun, bytes that were not asked for. -/
theorem test_netData_faults :
    gives (.netData []) (accum 0) 0x0000001D none = true ∧ gives (.netData []) (accum 7) 0x0000072D none = true ∧
    gives (.netData []) (accum 39) 0x0000272D none = true ∧
    gives (.netData [0xAA, 0xBB]) (accum 39) 0x0000273D none = true ∧
    gives (.netData (List.replicate 41 1#8)) (accum 0) 0x0000003D none = true ∧
    gives (.netData [1]) start 0x0000007D none = true ∧ gives (.netData []) (render 0) 0x0000287D none = true := by
  decide

/-- 95_test_vectors.md F2: the last byte of ρ starts RENDER with glyph 0 transposed. -/
theorem test_netData_completes :
    gives (.netData [39]) (accum 39) 0x00002802 (some (.dispLoadGlyph 0 #v[0, 0, 0, 0, 0, 1, 6, 0x0A])) = true ∧
    gives (.netData [9, 8]) (accum 5) 0x00000701 (some (.netRead 33)) = true ∧
    next (exec (.netData [9, 8]) (accum 5))
      (fun t => decide (t.gfe.rxbuf[4] = 4 ∧ t.gfe.rxbuf[5] = 9 ∧ t.gfe.rxbuf[6] = 8 ∧ t.gfe.rxbuf[7] = 7)) = true := by
  decide
theorem test_netReadErr : gives .netReadErr (accum 13) 0x00000D4D none = true := by decide
theorem test_netWriteDone :
    gives .netWriteDone ack 0x00000001 (some (.netRead 40)) = true ∧ gives .netWriteDone (accum 5) 0x0000057D none = true := by
  decide
theorem test_netWriteErr : gives .netWriteErr ack 0x0000285D none = true := by decide
theorem test_dispClear : next (exec .dispClear (diag 0)) (fun _ => true) = true := by decide

/-- 95_test_vectors.md S4: the text is cut to 16 bytes. -/
theorem test_dispWriteText :
    next (exec (.dispWriteText (longText.take 16)) (diag 2)) (fun _ => true) = true ∧
    refuses (exec (.dispWriteText longText) (diag 2)) .notEmitted = true := by
  decide

/-- 95_test_vectors.md S1, STEP 3. -/
theorem test_dispLoadGlyph :
    next (exec (.dispLoadGlyph 3 #v[0, 0, 0, 0x0F, 0x10, 0x10, 0x13, 0x15]) (render 3)) (fun _ => true) = true := by decide

/-- 95_test_vectors.md S1 with BASE_COL = 12, STEP 8 and 22. -/
theorem test_dispMoveCursor :
    encode (renderCmd (config .delayPaced 12#4 []) 8 (Vector.replicate 8 0#8)) = [0x23, 0x0C, 0x00] ∧
    encode (renderCmd (config .delayPaced 12#4 []) 22 (Vector.replicate 8 0#8)) = [0x23, 0x0F, 0x01] ∧
    next (exec (.dispMoveCursor 3 1) (render 22)) (fun _ => true) = true := by
  decide
theorem test_dispWriteChar : next (exec (.dispWriteChar 4) (render 17)) (fun _ => true) = true := by decide

/-- 95_test_vectors.md S1, S5 and V3: the loads advance, the last command counts the frame, the diagnostic ends in FAULT. -/
theorem test_dispOk :
    gives .dispOk (render 2) 0x00032802 (some (.dispLoadGlyph 3 #v[0, 0, 0, 0x0F, 0x10, 0x10, 0x13, 0x15])) = true ∧
    gives .dispOk (render 23) 0x00002803 (some (.netWrite 0x41)) = true ∧
    gives .dispOk (delay (render 23)) 0x00000001 (some (.netRead 40)) = true ∧
    gives .dispOk (diag 2) 0x006A286D none = true ∧ gives .dispOk start 0x0000007D none = true := by
  decide
theorem test_dispOk_frames_wrap :
    next (exec .dispOk ((render 23).withGfe { (render 23).gfe with frames := 0xFFFFFFFF#32 }))
      (fun t => decide (t.gfe.frames = 0)) = true := by
  decide

/-- 95_test_vectors.md S3 and S5. -/
theorem test_dispErr :
    gives .dispErr (render 0) 0x0000286C (some .dispClear) = true ∧
    gives .dispErr (render 23) 0x0017286C (some .dispClear) = true ∧ gives .dispErr (diag 1) 0x002A286D none = true := by
  decide

/-- 95_test_vectors.md S5: responses ignored in DIAG. -/
theorem test_ignored_in_diag :
    [Instr.netData [1], .netWriteDone].all (fun i => next (exec i (diag 1)) (fun t => decide (t.gfe = (diag 1).gfe))) = true := by
  decide

/-! ## The environment -/

/-- 44_environment.md R123: a text stops at column 15, and leaves the cursor unspecified. -/
theorem test_display_text :
    ((blankDisplay.apply (.dispMoveCursor 14 1)).apply (.dispWriteText [0x41, 0x42, 0x43])).cell[1][14] = .text 0x41 ∧
    ((blankDisplay.apply (.dispMoveCursor 14 1)).apply (.dispWriteText [0x41, 0x42, 0x43])).cell[1][15] = .text 0x42 ∧
    ((blankDisplay.apply (.dispMoveCursor 14 1)).apply (.dispWriteText [0x41, 0x42, 0x43])).cursor = .unspec := by
  decide

/-- 44_environment.md R123: a character goes to the cursor's cell, and nowhere once the cursor is unspecified. -/
theorem test_display_char :
    ((blankDisplay.apply (.dispMoveCursor 3 1)).apply (.dispWriteChar 7)).cell[1][3] = .code 7 ∧
    (blankDisplay.apply (.dispWriteChar 7)).cell = blankDisplay.cell := by
  decide

/-- 44_environment.md R120, R121: a file of 47 bytes is a record, a tail of 7 bytes, then a close. -/
theorem test_transmitter_tail :
    let t0 : Transmitter := { source := List.replicate 47 5#8, pacing := .delayPaced, waiting := false, done := false }
    let r1 := t0.act false (accum 0)
    let r2 := r1.1.act false r1.2
    let r3 := r2.1.act false r2.2
    r1.2.peer.pending.length = 40 ∧ r2.2.peer.pending.length = 47 ∧ r3.2.peer.closed = true ∧ r3.1.done = true := by
  decide

/-- The model's choice (log 20): what the PEER sends after it has closed is dropped. -/
theorem test_peerSend_after_close : ((start.peerSend [1]).peerClose.peerSend [2]).peer.pending = [1] := by decide

/-- The model's choice (log 21): after a tail an ack-paced transmitter waits, and closes when the wait runs out. -/
theorem test_transmitter_tail_waits :
    let t0 : Transmitter := { source := [7], pacing := .ackPaced, waiting := false, done := false }
    let r1 := t0.act false (accum 0)
    r1.2.peer.closed = false ∧ (r1.1.act false r1.2).2.peer.closed = false ∧ (r1.1.act true r1.2).2.peer.closed = true := by
  decide

/-- The model's choice (log 24): an acknowledgment in the stream is taken even when the wait has run out. -/
theorem test_transmitter_takes_ack_at_timeout :
    let t0 : Transmitter := { source := [7], pacing := .ackPaced, waiting := true, done := false }
    let r := t0.act true ((accum 0).withPeer { (accum 0).peer with acks := [0x41] })
    r.1.waiting = false ∧ r.1.done = false ∧ r.2.peer.closed = false ∧ r.2.peer.acks = [] := by
  decide

/-! ## A step -/

theorem test_step_netAccept : next (step (State.reset.withFetchWord 8 0x10)) (fun t => decide (t.due = .nothing)) = true := by
  decide
theorem test_step_netAccepted :
    next (step (State.reset.withFetchWord 8 0x18)) (fun t => decide (t.gfe.phase = .accum)) = true := by
  decide

/-! ## Witnesses: states that meet the hypotheses of the obligations, at the boundaries of each clause -/

/-- The invariant of S holds of a state when each of its parts does. -/
theorem witness_Inv_accum : (accum 39).Inv := by
  refine ⟨?_, by decide⟩
  constructor <;> decide
theorem witness_Inv_render_first : (render 0).Inv := by
  refine ⟨?_, by decide⟩
  constructor <;> decide
theorem witness_Inv_render_last : (render 23).Inv := by
  refine ⟨?_, by decide⟩
  constructor <;> decide
theorem witness_Inv_ack : ack.Inv := by
  refine ⟨?_, by decide⟩
  constructor <;> decide
theorem witness_Inv_diag : (diag 2).Inv := by
  refine ⟨?_, by decide⟩
  constructor <;> decide
theorem witness_Inv_fault : (faulted .protocolViolation).Inv := by
  refine ⟨?_, by decide⟩
  constructor <;> decide

theorem witness_DecodeOfEncode : wellFormed (.netData (List.replicate 255 7#8)) = true := by
  rw [wellFormed, fitsCount, List.length_replicate]; rfl
theorem witness_EncodeOfDecode : decode [0x11, 0x28, 0x28] = .ok (.netRead 40, [0x28]) := by decide
theorem witness_TraceIsConcatenationOfTokens : ∀ i ∈ [Instr.reset, .netData [1, 2], .statRead 0xFF], wellFormed i = true := by
  decide
theorem witness_CutTokensAreTruncated :
    wellFormed (.statValue 0 0) = true ∧ 0 < 5 ∧ 5 < (encode (.statValue 0 0)).length ∧
    1 < (encode (.netData [])).length := by
  decide
theorem witness_StepRunsDecodedToken : decode (start.withTrace [0x18, 0x28]).trace = .ok (.netAccepted, [0x28]) := by decide
theorem witness_StepStopsWithoutToken :
    stops (step (faulted .rxOverrun)) .finished = true ∧ stops (step (diag 2)) .held = true ∧
    stops (step State.reset) .held = true ∧ refuses (step (start.withTrace [0x00])) .unknownTag = true ∧
    refuses (step (start.withTrace [0x19, 0x01])) .truncated = true := by
  decide
theorem witness_ResetRestarts :
    (start.driveConfig (config .delayPaced 12#4 [])).cfgIn.legal = true ∧ start.displayCommandOutstanding = false ∧
    (render 3).cfgIn.legal = true ∧ (render 3).displayCommandOutstanding = true := by
  decide
theorem witness_ResetRefusesIllegalConfiguration : 12#4 < (start.driveConfig (config .delayPaced 13#4 [])).cfgIn.baseCol := by
  decide
theorem witness_ConfigurationIsConstant :
    next (exec .reset (start.driveConfig (config .delayPaced 12#4 []))) (fun t => decide (t.cfg.baseCol = 12)) = true ∧
    next (exec .netAccepted start) (fun t => decide (t.cfg = start.cfg)) = true := by
  decide
theorem witness_AcceptedConnectionStartsAccumulation : start.gfe.phase = .listen ∧ start.gfe.fault = false := by decide
theorem witness_ReadBytesFillTheBuffer :
    (accum 38).gfe.phase = .accum ∧ (accum 38).gfe.fault = false ∧ (accum 38).gfe.offset.toNat + [1#8].length = 39 ∧
    (accum 38).gfe.offset.toNat + [1#8, 2#8].length = 40 ∧ (accum 0).gfe.offset.toNat + (List.replicate 40 1#8).length = 40 := by
  decide
theorem witness_EndOfStreamIsTerminal :
    (accum 0).gfe.phase = .accum ∧ (accum 0).gfe.fault = false ∧ (accum 0).gfe.offset ≤ 39#6 ∧
    (accum 39).gfe.phase = .accum ∧ (accum 39).gfe.fault = false ∧ (accum 39).gfe.offset ≤ 39#6 := by
  decide
theorem witness_OverrunIsTerminal :
    (accum 39).gfe.phase = .accum ∧ (accum 39).gfe.fault = false ∧ (accum 39).gfe.offset ≤ 39#6 ∧
    40 - (accum 39).gfe.offset.toNat < [1#8, 2#8].length ∧ 40 - (accum 0).gfe.offset.toNat < (List.replicate 41 1#8).length := by
  decide
theorem witness_ReadErrorIsTerminal : (accum 13).gfe.phase = .accum ∧ (accum 13).gfe.fault = false := by decide
theorem witness_AnyChunkingReassemblesTheRecord :
    (accum 0).gfe.phase = .accum ∧ (accum 0).gfe.fault = false ∧ (accum 0).gfe.offset = 0#6 ∧
    (∀ c ∈ [[1#8], List.replicate 13 2#8, List.replicate 26 3#8], 1 ≤ c.length) ∧
    [[1#8], List.replicate 13 2#8, List.replicate 26 3#8].flatten.length = 40 := by
  decide
theorem witness_NoReadAfterFaultUntilReset :
    (diag 1).gfe.fault = true ∧ Instr.reset ∉ [Instr.dispOk, .statRead 0, .netData [1]] ∧
    (runTokens [.dispOk, .statRead 0, .netData [1]] (diag 1)).isSome = true := by
  decide
theorem witness_ReadsConserveTheStream :
    environmentMay (.netData [7]) ((accum 39).peerSend [7, 8]) = true ∧ ((accum 39).peerSend [7, 8]).Inv :=
  ⟨by decide, witness_Inv_accum.gfe, witness_Inv_accum.legal⟩
theorem witness_RequestOfEachState :
    start.gfe.phase = .listen ∧ (accum 39).gfe.phase = .accum ∧ (render 23).gfe.phase = .render ∧ ack.gfe.phase = .ack ∧
    ((diag 0).gfe.phase = .diag ∧ (diag 0).gfe.dstep = 0#2) ∧ ((diag 1).gfe.phase = .diag ∧ (diag 1).gfe.dstep = 1#2) ∧
    ((diag 2).gfe.phase = .diag ∧ (diag 2).gfe.dstep = 2#2) ∧ (faulted .eofAtBoundary).gfe.phase = .fault := by
  decide
theorem witness_FrameCommandTable : (config .ackPaced 12#4 []).legal = true := by decide
theorem witness_DisplayOkAdvancesTheFrame :
    (render 6).gfe.phase = .render ∧ (render 6).gfe.fault = false ∧ (render 6).gfe.step < 23#5 ∧ (render 6).gfe.step ≤ 6#5 ∧
    (render 7).gfe.step < 23#5 ∧ 6#5 < (render 7).gfe.step ∧ (render 22).gfe.step < 23#5 := by
  decide
theorem witness_LastDisplayOkCompletesTheFrame :
    (render 23).gfe.phase = .render ∧ (render 23).gfe.fault = false ∧ (render 23).gfe.step = 23#5 ∧
    (render 23).cfg.mode = .ackPaced ∧ (delay (render 23)).gfe.step = 23#5 ∧ (delay (render 23)).cfg.mode = .delayPaced := by
  decide
theorem witness_DisplayErrorStartsTheDiagnostic : (render 10).gfe.phase = .render ∧ (render 10).gfe.fault = false := by decide
theorem witness_DisplayOkAdvancesTheDiagnostic :
    (diag 0).gfe.phase = .diag ∧ (diag 0).gfe.fault = true ∧ (diag 0).gfe.dstep = 0#2 ∧ (diag 1).gfe.dstep = 1#2 ∧
    (diag 2).gfe.dstep = 2#2 := by
  decide
theorem witness_DisplayErrorAbandonsTheDiagnostic : (diag 2).gfe.phase = .diag ∧ (diag 2).gfe.fault = true := by decide
theorem witness_AcknowledgmentStartsTheNextRecord : ack.gfe.phase = .ack ∧ ack.gfe.fault = false := by decide
theorem witness_AcknowledgmentErrorIsTerminal : ack.gfe.phase = .ack ∧ ack.gfe.fault = false := by decide
theorem witness_UnaskedResponsesViolateTheProtocol :
    isResponse (.netData [1]) = true ∧ (render 3).gfe.fault = false ∧ acceptedIn (render 3).gfe.phase (.netData [1]) = false ∧
    start.gfe.fault = false ∧ acceptedIn start.gfe.phase (.netData [1]) = false ∧
    start.displayCommandOutstanding = false := by
  decide
theorem witness_FaultedMachineIgnoresResponses :
    isResponse .dispOk = true ∧ (faulted .rxOverrun).gfe.fault = true ∧ (faulted .rxOverrun).gfe.phase ≠ .diag ∧
    isResponse .netReadErr = true ∧ (diag 0).gfe.fault = true ∧ (diag 0).gfe.phase = .diag ∧
    Instr.netReadErr ≠ .dispOk ∧ Instr.netReadErr ≠ .dispErr := by
  decide
theorem witness_FaultIsLatchedUntilReset :
    (diag 2).gfe.fault = true ∧ next (exec .dispErr (diag 2)) (fun t => decide (t.gfe.cause = .displayError)) = true := by
  decide
theorem witness_NetRequestsAreShown :
    start.due = .request ∧ start.gfe.phase = .listen ∧ (accum 39).due = .request ∧ (accum 39).gfe.phase = .accum ∧
    ack.due = .request ∧ ack.gfe.phase = .ack := by
  decide
theorem witness_FrameRequestsAreShown :
    (render 7).due = .request ∧ (render 7).gfe.phase = .render ∧ (render 7).gfe.step ≤ 7#5 ∧
    (render 8).gfe.step.toNat = 8 + 2 * 0 ∧ (render 22).gfe.step.toNat = 8 + 2 * 7 ∧ (render 9).gfe.step.toNat = 9 + 2 * 0 ∧
    (render 23).gfe.step.toNat = 9 + 2 * 7 := by
  decide
theorem witness_DiagnosticRequestsAreShown :
    (diag 0).due = .request ∧ (diag 0).gfe.phase = .diag ∧ (diag 0).gfe.dstep = 0#2 ∧ (diag 1).gfe.dstep = 1#2 ∧
    (diag 2).gfe.dstep = 2#2 := by
  decide
theorem witness_UnissuedTokensAreRefused :
    (Instr.netRead 0).direction = .fromGfe ∧ (accum 39).due = .request ∧ (accum 39).request ≠ some (.netRead 0) := by
  decide
theorem witness_StatusValueIsShownOnce : ({ ack with due := .status 0xFF#8 } : State).due = .status 0xFF#8 := by decide
theorem witness_FramesConfigAndReservedAddresses : 0x03#8 ≤ 0x03#8 ∧ 0x03#8 ≤ 0xFF#8 := by decide
theorem witness_StatusRevealsTheTerminalFault : (render 23).Inv ∧ (faulted .protocolViolation).Inv :=
  ⟨witness_Inv_render_last, witness_Inv_fault⟩
theorem witness_TransposeIsBijective : LowRows (Vector.replicate 8 0x1F#8) := by
  intro r b hb
  fin_cases r <;> simp [bit, BitVec.getLsbD] <;> exact Nat.testBit_lt_two_pow (show 31 < 2 ^ b from by
    calc 31 < 2 ^ 5 := by decide
      _ ≤ 2 ^ b := Nat.pow_le_pow_right (by decide) hb)

/-- The next states of a small step meet the invariants' hypotheses. -/
theorem witness_StepKeepsTheInvariant :
    ((accum 39).withTrace [0x19, 0x01, 0x27]).Inv ∧
    next (step ((accum 39).withTrace [0x19, 0x01, 0x27])) (fun t => decide (t.gfe.phase = .render)) = true :=
  ⟨⟨witness_Inv_accum.gfe, witness_Inv_accum.legal⟩, by decide⟩
theorem witness_StepKeepsTheDisplayInvariant :
    ((render 0).withTrace [0x28]).Inv ∧ ((render 0).withTrace [0x28]).DisplayInv ∧
    next (step ((render 0).withTrace [0x28])) (fun t => decide (t.gfe.step = 1#5)) = true :=
  ⟨⟨witness_Inv_render_first.gfe, witness_Inv_render_first.legal⟩,
    ⟨fun _ => ⟨fun k h => absurd (show k.val < 0 from h) (by omega),
      fun k h => absurd (show 9 + 2 * k.val < 0 from h) (by omega),
      fun k h => absurd (show 0 = 9 + 2 * k.val from h) (by omega)⟩, fun h => absurd h (by decide)⟩, by decide⟩
theorem witness_StepKeepsWhatTheCauseRecords :
    ((diag 1).withTrace [0x29]).Inv ∧ ((diag 1).withTrace [0x29]).gfe.CauseRecorded ∧
    next (step ((diag 1).withTrace [0x29])) (fun t => decide (t.gfe.cause = .displayError)) = true := by
  refine ⟨⟨?_, by decide⟩, ⟨by decide, by decide⟩, by decide⟩
  constructor <;> decide
theorem witness_TransposeBufferHighBitsStayZero :
    Instr.netData [39] ≠ .reset ∧ (accum 39).gfe.phase ≠ .render ∧
    next (exec (.netData [39]) (accum 39))
      (fun t => decide (t.gfe.phase = .render ∧ t.gfe.tbuf ≠ (accum 39).gfe.tbuf)) = true := by
  decide
theorem witness_TransposeBufferIsLow : LowRows start.gfe.tbuf := by
  intro r b _
  fin_cases r <;> simp [start, Gfe.afterReset, bit]
theorem witness_FrameIsRenderedInOrder : (render 0).Inv ∧ (render 0).gfe.phase = .render ∧ (render 0).gfe.step = 0#5 :=
  ⟨witness_Inv_render_first, by decide⟩
theorem witness_OnlyRequestedReadsWriteTheBuffer :
    (render 0).gfe.phase ≠ .accum ∧ Instr.netData [9] ≠ .reset ∧
    next (exec (.netData [9]) (accum 5)) (fun t => decide (t.gfe.rxbuf ≠ (accum 5).gfe.rxbuf)) = true := by
  decide
theorem witness_OneConnectionBetweenResets :
    Instr.statRead 0 ≠ .reset ∧ next (exec (.statRead 0) start) (fun t => decide (t.gfe.phase = .listen)) = true := by
  decide
theorem witness_FramesCountCompletedFramesOnly :
    (render 23).Inv ∧ Instr.dispOk ≠ .reset ∧
    next (exec .dispOk (render 23)) (fun t => decide (t.gfe.frames = 1)) = true ∧
    next (exec .dispOk (render 22)) (fun t => decide (t.gfe.frames = 0)) = true :=
  ⟨witness_Inv_render_last, by decide⟩
theorem witness_DutifulEnvironmentCausesNoViolation :
    (render 23).Inv ∧ environmentMay .dispOk (render 23) = true ∧ next (exec .dispOk (render 23)) (fun _ => true) = true ∧
    (render 23).gfe.cause ≠ .rxOverrun ∧ (render 23).gfe.cause ≠ .protocolViolation :=
  ⟨witness_Inv_render_last, by decide⟩
theorem witness_EmittedTokensAreInRange :
    (render 0).Inv ∧ next (exec .dispOk (render 0)) (fun t => decide (t.gfe.step = 1)) = true ∧
    next (exec .reset (render 0)) (fun _ => true) = true :=
  ⟨witness_Inv_render_first, by decide⟩
theorem witness_ModeDecidesOnlyTheAcknowledgment :
    Instr.dispOk ≠ .reset ∧ Instr.dispOk ≠ .statRead 0x02#8 ∧ ¬23#5 ≤ (render 22).gfe.step ∧
    next (exec .dispOk (render 22)) (fun _ => true) = true := by
  decide
theorem witness_ModeActsAtCompletionAndShowsInConfig :
    (render 23).gfe.phase = .render ∧ (render 23).gfe.fault = false ∧ 23#5 ≤ (render 23).gfe.step := by
  decide
theorem witness_DiagnosticIsShownTruncated :
    (diag 0).gfe.phase = .diag ∧ (diag 0).gfe.fault = true ∧ (diag 0).gfe.dstep = 0#2 := by
  decide
theorem witness_StatusReadHasNoSideEffect : next (exec (.statRead 0) (diag 1)) (fun t => decide (t.gfe = (diag 1).gfe)) = true := by
  decide

end Sys2Proof.Tests
end

section
/-! How a step begins, and where it stops: the token at the head of the trace, the stops of an empty trace, the verdict of
a refused position (30_encoding.md R70, 44_environment.md R127), and RESET's refusal (70_reset_and_hazards.md R144). -/

namespace Sys2Proof.Machine

/-- The name `step` gives a verdict of the decoder (log 16). -/
def refusalOf : DecodeError → Refusal
  | .unknownTag => .unknownTag
  | .truncated => .truncated

/-- A position that decode refuses is fetched as the refusal by the same verdict (30_encoding.md R70). -/
theorem fetch_error (s : State) (e : DecodeError) (hne : s.trace ≠ []) (h : decode s.trace = .error e) :
    fetch s = .refuse (refusalOf e) := by
  cases ht : s.trace with
  | nil => exact absurd ht hne
  | cons b tail =>
    rw [ht] at h
    cases e <;> simp [fetch, ht, h, refusalOf]

/-- A fetched token is run with the trace moved past it (log 1). -/
theorem step_of_fetch_token {s : State} {i : Instr} {rest : List Byte} (h : fetch s = .token i rest) :
    step s = exec i (s.withTrace rest) := by
  simp [step, h]

/-- A stop of the fetch stops the machine. -/
theorem step_of_fetch_stop {s : State} {r : Fault} (h : fetch s = .stop r) : step s = .fault r := by
  simp [step, h]

/-- A refusal of the fetch is the refusal of the step. -/
theorem step_of_fetch_refuse {s : State} {r : Refusal} (h : fetch s = .refuse r) : step s = .refused r := by
  simp [step, h]

/-- A step runs the decoded head of the trace; the converse of `step_next`. -/
theorem step_of_decode {s : State} {i : Instr} {rest : List Byte} (h : decode s.trace = .ok (i, rest)) :
    step s = exec i (s.withTrace rest) :=
  step_of_fetch_token ((fetch_token s i rest).2 h)

/-- The diagnostic has three commands (42_sequencer.md R107). -/
theorem diagCmd_isSome (c : Configuration) (d : Nat) : (diagCmd c d).isSome = true ↔ d < 3 := by
  unfold diagCmd
  split_ifs <;> simp <;> omega

/-- Every STATE but FAULT has a request, and DIAG has one at each DSTEP but 3 (42_sequencer.md R91, R107; log 13). -/
theorem request_isSome (c : Configuration) (g : Gfe) :
    (request c g).isSome = true ↔ g.phase ≠ .fault ∧ (g.phase = .diag → g.dstep ≠ 3#2) := by
  cases hp : g.phase with
  | diag =>
    have hd : g.dstep.toNat < 3 ↔ g.dstep ≠ 3#2 := by bv_omega
    simp [request, hp, diagCmd_isSome, hd]
  | listen | accum | render | ack | fault => simp [request, hp]

/-- With no token left, a machine with a request outstanding is held (00_scope.md R14). -/
theorem step_held {s : State} (ht : s.trace = []) (hr : s.request.isSome = true) : step s = .fault .held :=
  step_of_fetch_stop (by rw [fetch_empty s ht, if_pos hr])

/-- With no token left, a machine without an outstanding request is finished (44_environment.md R127). -/
theorem step_finished {s : State} (ht : s.trace = []) (hr : ¬ s.request.isSome = true) : step s = .fault .finished :=
  step_of_fetch_stop (by rw [fetch_empty s ht, if_neg hr])

/-- A configuration is illegal exactly with BASE_COL above 12 (00_scope.md R7). -/
theorem legal_eq_false (c : Configuration) : c.legal = false ↔ 12#4 < c.baseCol := by
  simp [Configuration.legal]

/-- RESET refuses an illegal configuration at its inputs (70_reset_and_hazards.md R144). -/
theorem execReset_refused {s : State} (h : s.cfgIn.legal = false) : execReset s = .refused .illegalConfiguration := by
  simp [execReset, h]

/-- Settles O7: the decoded head is what fetch gives, and step runs it. -/
theorem stepRunsDecodedToken : Obligations.StepRunsDecodedToken :=
  fun _ _ _ h => step_of_decode h

/-- Settles O8: on an empty trace by whether a request is outstanding, on a refused position by the decoder's verdict. -/
theorem stepStopsWithoutToken : Obligations.StepStopsWithoutToken := by
  intro s
  refine ⟨fun ht hf => step_finished ht ?_, fun ht hf hd => step_held ht ?_, fun hne h => ?_, fun hne h => ?_⟩
  · exact fun hr => ((request_isSome s.cfg s.gfe).1 hr).1 hf
  · exact (request_isSome s.cfg s.gfe).2 ⟨hf, fun _ => hd⟩
  · exact step_of_fetch_refuse (fetch_error s .unknownTag hne h)
  · exact step_of_fetch_refuse (fetch_error s .truncated hne h)

/-- Settles O11: BASE_COL above 12 is what makes a configuration illegal, and RESET refuses such a one. -/
theorem resetRefusesIllegalConfiguration : Obligations.ResetRefusesIllegalConfiguration :=
  fun s h => execReset_refused ((legal_eq_false s.cfgIn).2 h)

end Sys2Proof.Machine
end

section
/-! What the invariant of S says phase by phase, and that every token keeps it (10_state.md R29). -/

namespace Sys2Proof.Machine

/-- I1 to I8 of 10_state.md R29 read as one clause per STATE, without the ranges of STEP and OFFSET. I7 and I8 are one
clause: TBUF holds the transposed glyph min(STEP, 7). -/
def Gfe.PhaseInv (c : Configuration) (g : Gfe) : Prop :=
  match g.phase with
  | .listen => g.offset = 0#6 ∧ g.step = 0#5 ∧ g.dstep = 0#2 ∧ g.fault = false ∧ g.cause = .none ∧ g.frames = 0#32
  | .accum => g.offset ≤ 39#6 ∧ g.step = 0#5 ∧ g.dstep = 0#2 ∧ g.fault = false ∧ g.cause = .none
  | .render =>
    g.offset = 40#6 ∧ g.dstep = 0#2 ∧ g.fault = false ∧ g.cause = .none ∧
      g.tbuf = transpose (glyphAt g.rxbuf (min g.step.toNat 7))
  | .ack => c.mode = .ackPaced ∧ g.offset = 40#6 ∧ g.step = 0#5 ∧ g.dstep = 0#2 ∧ g.fault = false ∧ g.cause = .none
  | .diag => g.fault = true ∧ g.cause = .displayError ∧ g.offset = 40#6 ∧ g.dstep ≤ 2#2
  | .fault => g.fault = true ∧ g.cause ≠ .none ∧ (g.cause ≠ .displayError → g.dstep = 0#2)

/-- I7 and I8 say of TBUF what the one clause of `Gfe.PhaseInv` says. -/
theorem tbuf_clauses_iff (g : Gfe) :
    ((g.step ≤ 7#5 → g.tbuf = transpose (glyphAt g.rxbuf g.step.toNat)) ∧
      (8#5 ≤ g.step → g.tbuf = transpose (glyphAt g.rxbuf 7))) ↔
    g.tbuf = transpose (glyphAt g.rxbuf (min g.step.toNat 7)) := by
  by_cases hs : g.step ≤ 7#5
  · have hn : g.step.toNat ≤ 7 := hs
    have hlt : ¬ 8#5 ≤ g.step := by bv_omega
    simp [hs, hlt, hn]
  · have hle : 8#5 ≤ g.step := by bv_omega
    have hn : 7 ≤ g.step.toNat := by bv_omega
    simp [hs, hle, hn]

/-- The invariant of S is its clause for the present STATE, with the ranges of STEP and OFFSET. -/
theorem Gfe.inv_iff (c : Configuration) (g : Gfe) :
    g.Inv c ↔ g.PhaseInv c ∧ g.step ≤ 23#5 ∧ g.offset ≤ 40#6 := by
  constructor
  · intro h
    refine ⟨?_, h.stepRange, h.offsetRange⟩
    unfold Gfe.PhaseInv
    split
    case h_1 hp => exact h.i1 hp
    case h_2 hp => exact h.i2 hp
    case h_3 hp =>
      obtain ⟨ho, -, hd, hf, hc⟩ := h.i3 hp
      exact ⟨ho, hd, hf, hc, (tbuf_clauses_iff g).1 ⟨h.i7 hp, h.i8 hp⟩⟩
    case h_4 hp => exact h.i4 hp
    case h_5 hp =>
      obtain ⟨hf, hc, ho, hd, -⟩ := h.i5 hp
      exact ⟨hf, hc, ho, hd⟩
    case h_6 hp =>
      obtain ⟨hf, hc⟩ := h.i6 hp
      exact ⟨hf, hc, h.noDiagnostic hp⟩
  · rintro ⟨h, hs, ho⟩
    constructor
    case stepRange => exact hs
    case offsetRange => exact ho
    all_goals
      intro hp
      simp only [Gfe.PhaseInv, hp] at h
    case i1 => exact h
    case i2 => exact h
    case i3 =>
      obtain ⟨hoff, hd, hf, hc, -⟩ := h
      exact ⟨hoff, hs, hd, hf, hc⟩
    case i4 => exact h
    case i5 =>
      obtain ⟨hf, hc, hoff, hd⟩ := h
      exact ⟨hf, hc, hoff, hd, hs⟩
    case i6 =>
      obtain ⟨hf, hc, -⟩ := h
      exact ⟨hf, hc⟩
    case i7 =>
      obtain ⟨-, -, -, -, ht⟩ := h
      exact ((tbuf_clauses_iff g).2 ht).1
    case i8 =>
      obtain ⟨-, -, -, -, ht⟩ := h
      exact ((tbuf_clauses_iff g).2 ht).2
    case noDiagnostic =>
      obtain ⟨-, -, hd⟩ := h
      exact hd

/-- With FAULT = 0 no diagnostic has run and no cause is latched. -/
theorem Gfe.Inv.unlatched {c : Configuration} {g : Gfe} (h : g.Inv c) (f : g.fault = false) :
    g.dstep = 0#2 ∧ g.cause = .none := by
  have hp := ((Gfe.inv_iff c g).1 h).1
  unfold Gfe.PhaseInv at hp
  split at hp <;> simp_all

/-- In RENDER FAULT is 0, and TBUF holds the transposed glyph min(STEP, 7). -/
theorem Gfe.Inv.rendering {c : Configuration} {g : Gfe} (h : g.Inv c) (hp : g.phase = .render) :
    g.fault = false ∧ g.tbuf = transpose (glyphAt g.rxbuf (min g.step.toNat 7)) := by
  obtain ⟨-, -, -, f, -⟩ := h.i3 hp
  exact ⟨f, (tbuf_clauses_iff g).1 ⟨h.i7 hp, h.i8 hp⟩⟩

/-- S after reset meets the invariant, whatever its buffers hold (10_state.md R35). -/
theorem Gfe.inv_afterReset (c : Configuration) (rxbuf : Vector Byte 40) (tbuf : RmGlyph) :
    (Gfe.afterReset rxbuf tbuf).Inv c :=
  (Gfe.inv_iff c _).2 ⟨⟨rfl, rfl, rfl, rfl, rfl, rfl⟩, by simp [Gfe.afterReset], by simp [Gfe.afterReset]⟩

/-- ACCUM at OFFSET 0 and STEP 0 meets the invariant once S is unlatched (10_state.md R21, R29). -/
theorem Gfe.inv_enterAccum (c : Configuration) {g : Gfe} (f : g.fault = false) (hd : g.dstep = 0#2)
    (hc : g.cause = .none) : (enterAccum g).Inv c :=
  (Gfe.inv_iff c _).2 ⟨⟨by simp, rfl, hd, f, hc⟩, by simp, by simp⟩

/-- A fault other than the display error leaves the invariant: FAULT with its cause and DSTEP 0. -/
theorem Gfe.inv_raiseFault {c : Configuration} {g : Gfe} (h : g.Inv c) (f : g.fault = false) (k : Cause)
    (hk : k ≠ .none) (hd : k ≠ .displayError) : (raiseFault k g).Inv c := by
  refine (Gfe.inv_iff c _).2 ⟨?_, by simpa using h.stepRange, by simpa using h.offsetRange⟩
  obtain ⟨e, -⟩ | ⟨-, e⟩ := raiseFault_cases k g f
  · exact absurd e hd
  · rw [e]
    exact ⟨rfl, hk, fun _ => (h.unlatched f).1⟩

/-- The display error in RENDER leaves the invariant: DIAG at DSTEP 0 with the record held (42_sequencer.md R101). -/
theorem Gfe.inv_raiseDisplayError {c : Configuration} {g : Gfe} (h : g.Inv c) (f : g.fault = false)
    (hp : g.phase = .render) : (raiseFault .displayError g).Inv c := by
  refine (Gfe.inv_iff c _).2 ⟨?_, by simpa using h.stepRange, by simpa using h.offsetRange⟩
  obtain ⟨-, e⟩ | ⟨e, -⟩ := raiseFault_cases .displayError g f
  · rw [e]
    obtain ⟨ho, -⟩ := h.i3 hp
    exact ⟨rfl, rfl, ho, by simp⟩
  · exact absurd rfl e

/-- A read of at most `need` bytes, with OFFSET at most 40, lands at most at the record's end. -/
theorem Gfe.offset_add_toNat {g : Gfe} (ho : g.offset ≤ 40#6) {n : Nat} (hn : n ≤ g.need) :
    (g.offset + BitVec.ofNat 6 n).toNat = g.offset.toNat + n := by
  have ho' : g.offset.toNat ≤ 40 := ho
  have hn' : n ≤ 40 - g.offset.toNat := hn
  simp only [BitVec.toNat_add, BitVec.toNat_ofNat]
  omega

/-- A non-empty read in ACCUM keeps the invariant: in ACCUM OFFSET stays below 40, and RENDER starts with glyph 0 in TBUF
(41_framer.md R85). -/
theorem Gfe.inv_acceptBytes {c : Configuration} {g : Gfe} (h : g.Inv c) (hp : g.phase = .accum) {d : List Byte}
    (hn : d.length ≤ g.need) : (acceptBytes d g).Inv c := by
  obtain ⟨-, hs, hd, f, hc⟩ := h.i2 hp
  have hsum := Gfe.offset_add_toNat h.offsetRange hn
  have hle : g.offset.toNat + d.length ≤ 40 := by
    have ho : g.offset.toNat ≤ 40 := h.offsetRange
    have hn' : d.length ≤ 40 - g.offset.toNat := hn
    omega
  refine (Gfe.inv_iff c _).2 ?_
  unfold acceptBytes
  dsimp only
  split
  · next e => exact ⟨⟨e, hd, f, hc, rfl⟩, by simp, by simp [e]⟩
  · next e =>
    have hlt : g.offset + BitVec.ofNat 6 d.length ≤ 39#6 := by bv_omega
    exact ⟨by simpa only [Gfe.PhaseInv, hp] using ⟨hlt, hs, hd, f, hc⟩, h.stepRange, by bv_omega⟩

/-- A completed display command in RENDER keeps the invariant: TBUF follows STEP, and command 23 leads to ACK in ack-paced
mode alone (42_sequencer.md R95, R99, R100). -/
theorem Gfe.inv_renderNext {c : Configuration} {g : Gfe} (h : g.Inv c) (hp : g.phase = .render) :
    (renderNext c g).Inv c := by
  obtain ⟨ho, hs, hd, f, hc⟩ := h.i3 hp
  obtain ⟨-, ht⟩ := h.rendering hp
  obtain ⟨hload, hwrite, hdone⟩ := renderNext_cases c g
  by_cases h6 : g.step.toNat ≤ 6
  · have hstep : (g.step + 1#5).toNat = g.step.toNat + 1 := by bv_omega
    rw [hload h6, Gfe.inv_iff]
    refine ⟨?_, by bv_omega, h.offsetRange⟩
    simp only [Gfe.PhaseInv, hp]
    exact ⟨ho, hd, f, hc, by rw [hstep, Nat.min_eq_left (by omega)]⟩
  · by_cases h23 : g.step.toNat < 23
    · have hstep : (g.step + 1#5).toNat = g.step.toNat + 1 := by bv_omega
      rw [hwrite (by omega) h23, Gfe.inv_iff]
      refine ⟨?_, by bv_omega, h.offsetRange⟩
      simp only [Gfe.PhaseInv, hp]
      rw [Nat.min_eq_right (by omega)] at ht
      exact ⟨ho, hd, f, hc, by rw [hstep, Nat.min_eq_right (by omega), ht]⟩
    · rw [hdone (by omega)]
      unfold renderDone
      cases hm : c.mode with
      | ackPaced => exact (Gfe.inv_iff c _).2 ⟨⟨hm, ho, rfl, hd, f, hc⟩, by simp, by simp [ho]⟩
      | delayPaced => exact Gfe.inv_enterAccum c f hd hc

/-- A completed diagnostic command keeps the invariant: DSTEP stays below 3 in DIAG, and FAULT keeps the display error
(42_sequencer.md R110). -/
theorem Gfe.inv_diagNext {c : Configuration} {g : Gfe} (h : g.Inv c) (hp : g.phase = .diag) : (diagNext g).Inv c := by
  obtain ⟨f, hc, ho, hd, -⟩ := h.i5 hp
  refine (Gfe.inv_iff c _).2 ⟨?_, h.stepRange, h.offsetRange⟩
  by_cases e : g.dstep + 1#2 = 3#2
  · simp only [Gfe.PhaseInv, diagNext, e, if_true]
    exact ⟨f, by simp [hc], fun hn => absurd hc hn⟩
  · simp only [Gfe.PhaseInv, diagNext, e, if_false, hp]
    exact ⟨f, hc, ho, by bv_omega⟩

/-- Everything a token other than RESET can do to S keeps the invariant of S. -/
theorem GfeMove.inv {c : Configuration} {i : Instr} {g g' : Gfe} (m : GfeMove c i g g') (h : g.Inv c) : g'.Inv c := by
  cases m with
  | same => exact h
  | violation f => exact Gfe.inv_raiseFault h f _ (by decide) (by decide)
  | accepted f | acknowledged f =>
    obtain ⟨hd, hc⟩ := h.unlatched f
    exact Gfe.inv_enterAccum c f hd hc
  | endOfStream f => exact Gfe.inv_raiseFault h f _ (by split <;> decide) (by split <;> decide)
  | bytes d f hp _ _ hn => exact Gfe.inv_acceptBytes h hp hn
  | overrun d f => exact Gfe.inv_raiseFault h f _ (by decide) (by decide)
  | readError f => exact Gfe.inv_raiseFault h f _ (by decide) (by decide)
  | rendered f hp => exact Gfe.inv_renderNext h hp
  | displayError f hp => exact Gfe.inv_raiseDisplayError h f hp
  | diagnosed f hp => exact Gfe.inv_diagNext h hp
  | abandoned f hp =>
    obtain ⟨-, hc, -⟩ := h.i5 hp
    exact (Gfe.inv_iff c _).2 ⟨⟨f, by simp [hc], fun hn => absurd hc hn⟩, h.stepRange, h.offsetRange⟩
  | ackError f => exact Gfe.inv_raiseFault h f _ (by decide) (by decide)

/-- Every token keeps the invariant of the machine: RESET establishes it, any other token keeps it. -/
theorem exec_inv {i : Instr} {s t : State} (h : s.Inv) (e : exec i s = .next t) : t.Inv := by
  by_cases hi : i = .reset
  · subst hi
    obtain ⟨hl, rfl⟩ := (execReset_next s t).1 e
    exact ⟨Gfe.inv_afterReset _ _ _, hl⟩
  · have n := exec_next hi e
    exact ⟨n.cfg ▸ n.move.inv h.gfe, n.cfg ▸ h.legal⟩

/-- Settles O47: a step runs one token, and the trace it moves is no part of the invariant. -/
theorem stepKeepsTheInvariant : Obligations.StepKeepsTheInvariant := by
  intro s t h e
  obtain ⟨i, rest, -, e⟩ := step_next s t e
  have h' : (s.withTrace rest).Inv := ⟨h.gfe, h.legal⟩
  exact exec_inv h' e

end Sys2Proof.Machine
end

section
/-! The status registers as numbers and field by field (10_state.md R17, R30 to R33; 60_exceptions.md R128). -/

namespace Sys2Proof.Machine

/-- What each status address shows (43_status_port.md R114). -/
@[simp] theorem statValue_status (c : Configuration) (g : Gfe) : statValue 0x00#8 c g = statusWord g := rfl
@[simp] theorem statValue_frames (c : Configuration) (g : Gfe) : statValue 0x01#8 c g = g.frames := rfl
@[simp] theorem statValue_config (c : Configuration) (g : Gfe) : statValue 0x02#8 c g = configWord c := rfl

/-- Reserved addresses read 0 (10_state.md R33). -/
theorem statValue_reserved {a : Byte} (h : 0x03#8 ≤ a) (c : Configuration) (g : Gfe) : statValue a c g = 0#32 := by
  have h0 : a ≠ 0x00#8 := by bv_omega
  have h1 : a ≠ 0x01#8 := by bv_omega
  have h2 : a ≠ 0x02#8 := by bv_omega
  simp [statValue, h0, h1, h2]

/-- A word below another, as a number. -/
theorem append_toNat {m n : Nat} (x : BitVec m) (y : BitVec n) : (x ++ y).toNat = x.toNat * 2 ^ n + y.toNat := by
  rw [BitVec.toNat_append, ← Nat.shiftLeft_add_eq_or_of_lt y.isLt, Nat.shiftLeft_eq]

/-- FAULT's bit as a number. -/
@[simp] theorem faultBit_toNat (g : Gfe) : g.faultBit.toNat = g.fault.toNat := by
  unfold Gfe.faultBit
  cases g.fault <;> rfl

/-- MODE's bit is 1 exactly in ack-paced mode (00_scope.md R7). -/
theorem mode_bit_toNat (m : Pacing) : m.bit.toNat = (decide (m = .ackPaced)).toNat := by
  cases m <;> rfl

/-- STATUS as a number: each field at its place (10_state.md R30). -/
theorem statusWord_toNat (g : Gfe) :
    (statusWord g).toNat =
      g.phase.code.toNat + 2 ^ 3 * g.fault.toNat + 2 ^ 4 * g.cause.code.toNat + 2 ^ 8 * g.offset.toNat +
        2 ^ 16 * g.step.toNat + 2 ^ 21 * g.dstep.toNat := by
  have hd := g.dstep.isLt
  have hs := g.step.isLt
  have ho := g.offset.isLt
  have hc := g.cause.code.isLt
  have hf := g.fault.toNat_le
  have hp := g.phase.code.isLt
  simp only [statusWord, BitVec.zeroExtend, BitVec.toNat_setWidth, append_toNat, faultBit_toNat, BitVec.toNat_ofNat]
  omega

/-- CONFIG as a number: MODE in bit 0, BASE_COL from bit 4 (10_state.md R32). -/
theorem configWord_toNat (c : Configuration) :
    (configWord c).toNat = (decide (c.mode = .ackPaced)).toNat + 2 ^ 4 * c.baseCol.toNat := by
  have hb := c.baseCol.isLt
  have hm := (decide (c.mode = .ackPaced)).toNat_le
  simp only [configWord, BitVec.zeroExtend, BitVec.toNat_setWidth, append_toNat, mode_bit_toNat, BitVec.toNat_ofNat]
  omega

/-- A field of a word, from the word as a number. -/
theorem extractLsb'_eq_of_toNat {w n i : Nat} {v : BitVec w} {x : BitVec n}
    (h : v.toNat / 2 ^ i % 2 ^ n = x.toNat) : v.extractLsb' i n = x := by
  apply BitVec.eq_of_toNat_eq
  rw [BitVec.extractLsb'_toNat, Nat.shiftRight_eq_div_pow, h]

/-- A field that is 0, from the word as a number. -/
theorem extractLsb'_eq_zero_of_toNat {w n i : Nat} {v : BitVec w} (h : v.toNat / 2 ^ i % 2 ^ n = 0) :
    v.extractLsb' i n = 0#n :=
  extractLsb'_eq_of_toNat (by simpa using h)

/-- A bit of a word, from the word as a number. -/
theorem getLsbD_eq_of_toNat {w i : Nat} {v : BitVec w} {b : Bool} (h : v.toNat / 2 ^ i % 2 = b.toNat) :
    v.getLsbD i = b := by
  rw [BitVec.getLsbD, Nat.testBit_eq_decide_div_mod_eq, h]
  cases b <;> rfl

/-- Settles O39: every field is read off STATUS as a number. -/
theorem statusFields : Obligations.StatusFields := by
  intro c g
  have hw := statusWord_toNat g
  have hd := g.dstep.isLt
  have hs := g.step.isLt
  have ho := g.offset.isLt
  have hc := g.cause.code.isLt
  have hf := g.fault.toNat_le
  have hp := g.phase.code.isLt
  simp only [statValue_status]
  refine ⟨extractLsb'_eq_of_toNat ?_, getLsbD_eq_of_toNat ?_, extractLsb'_eq_of_toNat ?_, extractLsb'_eq_of_toNat ?_,
    extractLsb'_eq_zero_of_toNat ?_, extractLsb'_eq_of_toNat ?_, extractLsb'_eq_of_toNat ?_,
    extractLsb'_eq_zero_of_toNat ?_⟩
  all_goals omega

/-- Settles O40: FRAMES as it is, the fields of CONFIG read off it as a number, 0 at every other address. -/
theorem framesConfigAndReservedAddresses : Obligations.FramesConfigAndReservedAddresses := by
  intro c g
  have hw := configWord_toNat c
  have hb := c.baseCol.isLt
  have hm := (decide (c.mode = .ackPaced)).toNat_le
  have hmode : (configWord c).getLsbD 0 = decide (c.mode = .ackPaced) := getLsbD_eq_of_toNat (by omega)
  simp only [statValue_config]
  refine ⟨rfl, by rw [hmode, decide_eq_true_iff], extractLsb'_eq_zero_of_toNat ?_, extractLsb'_eq_of_toNat ?_,
    extractLsb'_eq_zero_of_toNat ?_, fun a h => statValue_reserved h c g⟩
  all_goals omega

/-- Settles O41: the tables of the codes, entry by entry. -/
theorem stateAndCauseCodes : Obligations.StateAndCauseCodes := ⟨rfl, rfl⟩

end Sys2Proof.Machine
end

section
/-! Power-on and RESET: one and the same event (10_state.md R35, 70_reset_and_hazards.md R143 to R145). -/

namespace Sys2Proof.Machine

/-- S after reset has NET_ACCEPT outstanding, whatever its buffers hold (70_reset_and_hazards.md R143). -/
@[simp] theorem request_afterReset (c : Configuration) (rxbuf : Vector Byte 40) (tbuf : RmGlyph) :
    request c (Gfe.afterReset rxbuf tbuf) = some .netAccept := rfl

/-- The request after a restart is NET_ACCEPT. -/
@[simp] theorem State.restarted_request (s : State) : s.restarted.request = some .netAccept :=
  request_afterReset _ _ _

/-- The configuration at power-on is legal: BASE_COL is 0 (00_scope.md R7). -/
theorem powerOn_legal : Config.powerOn.legal = true := rfl

/-- RESET with a legal configuration at its inputs restarts the machine (70_reset_and_hazards.md R143, R144). -/
theorem exec_reset {s : State} (h : s.cfgIn.legal = true) : exec .reset s = .next s.restarted.issue :=
  (execReset_next s s.restarted.issue).2 ⟨h, rfl⟩

/-- A RESET that abandons no display command leaves the DISPLAY (70_reset_and_hazards.md R145). -/
theorem State.restarted_display_of_idle {s : State} (h : s.displayCommandOutstanding = false) :
    s.restarted.display = s.display := by
  simp [State.abandonCommand_display, h]

/-- A state is known by its nine fields. -/
theorem State.ext_fields {s t : State} (gfe : s.gfe = t.gfe) (cfg : s.cfg = t.cfg) (cfgIn : s.cfgIn = t.cfgIn)
    (display : s.display = t.display) (peer : s.peer = t.peer) (trace : s.trace = t.trace) (due : s.due = t.due)
    (emitted : s.emitted = t.emitted) (free : s.free = t.free) : s = t := by
  cases s
  cases t
  simp_all

/-- Settles O9: the fields of the power-on state, one by one. -/
theorem powerOnState : Obligations.PowerOnState := ⟨rfl, rfl, rfl, rfl, rfl, rfl, rfl, rfl, rfl⟩

/-- Settles O10: the restarted machine with its request issued, field by field. -/
theorem resetRestarts : Obligations.ResetRestarts := by
  intro s h
  refine ⟨Config.freeRxbuf s.free, Config.freeTbuf s.free, s.restarted.display, s.free + 1, ?_,
    State.restarted_display_of_idle⟩
  rw [exec_reset h]
  exact congrArg Host.Outcome.next (State.ext_fields rfl rfl (by simp) rfl rfl (by simp) (by simp) (by simp) rfl)

/-- Settles O50: the power-on state is in LISTEN, where the display invariant and the record of the cause ask nothing. -/
theorem powerOnMeetsTheInvariants : Obligations.PowerOnMeetsTheInvariants :=
  ⟨⟨Gfe.inv_afterReset _ _ _, powerOn_legal⟩, ⟨(nomatch ·), (nomatch ·)⟩, trivial⟩

end Sys2Proof.Machine
end

section
/-! Who writes TBUF, RXBUF and FRAMES: the moves of S that change each of them (10_state.md R25 to R27, R29). -/

namespace Sys2Proof.Machine

/-- A row TRANSPOSE computes has bits 7:5 zero (40_transposer.md R74). -/
theorem transposeRow_bit_high (x : CmGlyph) (r : Nat) {b : Nat} (hb : 5 ≤ b) : bit (transposeRow x r) b = false := by
  have hcol : ∀ c : Fin 5, 4 - c.val ≠ b := fun c => by omega
  simp [transposeRow, byteOfBits_bit, hcol]

/-- What TRANSPOSE computes has bits 7:5 zero in every byte (40_transposer.md R74). -/
theorem lowRows_transpose (x : CmGlyph) : LowRows (transpose x) := by
  intro r b hb
  simpa [transpose] using transposeRow_bit_high x r.val hb

/-- A completed frame leaves RXBUF and TBUF, and counts one frame (42_sequencer.md R100). -/
@[simp] theorem renderDone_rxbuf (c : Configuration) (g : Gfe) : (renderDone c g).rxbuf = g.rxbuf := by
  unfold renderDone; split <;> rfl
@[simp] theorem renderDone_tbuf (c : Configuration) (g : Gfe) : (renderDone c g).tbuf = g.tbuf := by
  unfold renderDone; split <;> rfl
@[simp] theorem renderDone_frames (c : Configuration) (g : Gfe) : (renderDone c g).frames = g.frames + 1#32 := by
  unfold renderDone; split <;> rfl

/-- No display command of a frame writes RXBUF. -/
@[simp] theorem renderNext_rxbuf (c : Configuration) (g : Gfe) : (renderNext c g).rxbuf = g.rxbuf := by
  obtain ⟨hload, hwrite, hdone⟩ := renderNext_cases c g
  by_cases h6 : g.step.toNat ≤ 6
  · rw [hload h6]
  · by_cases h23 : g.step.toNat < 23
    · rw [hwrite (by omega) h23]
    · rw [hdone (by omega), renderDone_rxbuf]

/-- A display command before the last counts no frame (42_sequencer.md R99). -/
theorem renderNext_frames (c : Configuration) {g : Gfe} (h : g.step.toNat < 23) :
    (renderNext c g).frames = g.frames := by
  obtain ⟨hload, hwrite, -⟩ := renderNext_cases c g
  by_cases h6 : g.step.toNat ≤ 6
  · rw [hload h6]
  · rw [hwrite (by omega) h]

/-- A completed display command leaves TBUF, or puts a transposed glyph there (42_sequencer.md R95). -/
theorem renderNext_tbuf (c : Configuration) (g : Gfe) :
    (renderNext c g).tbuf = g.tbuf ∨ ∃ x, (renderNext c g).tbuf = transpose x := by
  obtain ⟨hload, hwrite, hdone⟩ := renderNext_cases c g
  by_cases h6 : g.step.toNat ≤ 6
  · exact .inr ⟨_, by rw [hload h6]⟩
  · by_cases h23 : g.step.toNat < 23
    · exact .inl (by rw [hwrite (by omega) h23])
    · exact .inl (by rw [hdone (by omega), renderDone_tbuf])

/-- A non-empty read counts no frame. -/
@[simp] theorem acceptBytes_frames (d : List Byte) (g : Gfe) : (acceptBytes d g).frames = g.frames := by
  unfold acceptBytes; dsimp only; split <;> rfl

/-- A non-empty read leaves TBUF and stays where it is, or starts RENDER with a transposed glyph in TBUF (42_sequencer.md
R95 (a)). -/
theorem acceptBytes_tbuf (d : List Byte) (g : Gfe) :
    ((acceptBytes d g).tbuf = g.tbuf ∧ (acceptBytes d g).phase = g.phase) ∨
      ∃ x, (acceptBytes d g).tbuf = transpose x := by
  unfold acceptBytes
  dsimp only
  split
  · exact .inr ⟨_, rfl⟩
  · exact .inl ⟨rfl, rfl⟩

/-- A completed diagnostic command does not start RENDER (42_sequencer.md R110). -/
theorem diagNext_phase_ne_render {g : Gfe} (h : g.phase = .diag) : (diagNext g).phase ≠ .render := by
  unfold diagNext
  dsimp only
  split <;> simp [h]

/-- A latched fault is not in RENDER. -/
theorem raiseFault_phase_ne_render (k : Cause) {g : Gfe} (f : g.fault = false) : (raiseFault k g).phase ≠ .render := by
  rcases raiseFault_phase k g f with h | h <;> simp [h]

/-- A token other than RESET leaves TBUF and does not start RENDER, or puts a transposed glyph into TBUF (42_sequencer.md
R95). -/
theorem GfeMove.tbuf {c : Configuration} {i : Instr} {g g' : Gfe} (m : GfeMove c i g g') :
    (g'.tbuf = g.tbuf ∧ (g'.phase = .render → g.phase = .render)) ∨ ∃ x, g'.tbuf = transpose x := by
  cases m with
  | same => exact .inl ⟨rfl, id⟩
  | accepted | acknowledged => exact .inl ⟨rfl, (nomatch ·)⟩
  | violation f | endOfStream f | overrun _ f | readError f | displayError f | ackError f =>
    exact .inl ⟨raiseFault_tbuf _ g, fun h => absurd h (raiseFault_phase_ne_render _ f)⟩
  | bytes d => exact (acceptBytes_tbuf d g).imp_left fun ⟨ht, hp⟩ => ⟨ht, fun h => hp ▸ h⟩
  | rendered _ hp => exact (renderNext_tbuf c g).imp_left fun ht => ⟨ht, fun _ => hp⟩
  | diagnosed _ hp => exact .inl ⟨rfl, fun h => absurd h (diagNext_phase_ne_render hp)⟩
  | abandoned => exact .inl ⟨rfl, (nomatch ·)⟩

/-- A token other than RESET leaves RXBUF, unless it is a non-empty read of at most `need` bytes in ACCUM with FAULT = 0
(10_state.md R26, 41_framer.md R85). -/
theorem GfeMove.rxbuf {c : Configuration} {i : Instr} {g g' : Gfe} (m : GfeMove c i g g') :
    g'.rxbuf = g.rxbuf ∨
      (g.phase = .accum ∧ g.fault = false ∧ ∃ d, i = .netData d ∧ 1 ≤ d.length ∧ d.length ≤ g.need) := by
  cases m with
  | bytes d f hp hi h1 hn => exact .inr ⟨hp, f, d, hi, h1, hn⟩
  | same | accepted | acknowledged | diagnosed | abandoned => exact .inl rfl
  | violation | endOfStream | overrun | readError | displayError | ackError => exact .inl (raiseFault_rxbuf _ g)
  | rendered => exact .inl (renderNext_rxbuf c g)

/-- A token other than RESET leaves FRAMES, unless it is a DISP_OK in RENDER after the 23rd command (42_sequencer.md
R100). -/
theorem GfeMove.frames {c : Configuration} {i : Instr} {g g' : Gfe} (m : GfeMove c i g g') :
    g'.frames = g.frames ∨ (i = .dispOk ∧ g.phase = .render ∧ 23 ≤ g.step.toNat) := by
  cases m with
  | rendered _ hp hi =>
    by_cases h : g.step.toNat < 23
    · exact .inl (renderNext_frames c h)
    · exact .inr ⟨hi, hp, by omega⟩
  | same | accepted | acknowledged | diagnosed | abandoned => exact .inl rfl
  | violation | endOfStream | overrun | readError | displayError | ackError => exact .inl (raiseFault_frames _ g)
  | bytes d => exact .inl (acceptBytes_frames d g)

/-- No command of a frame is a NET_READ (42_sequencer.md R94). -/
theorem renderCmd_ne_netRead (c : Configuration) (n : Nat) (y : RmGlyph) (need : Byte) :
    renderCmd c n y ≠ .netRead need := by
  unfold renderCmd
  split_ifs <;> simp

/-- No command of the diagnostic is a NET_READ (42_sequencer.md R107). -/
theorem diagCmd_ne_netRead (c : Configuration) (d : Nat) (need : Byte) : diagCmd c d ≠ some (.netRead need) := by
  unfold diagCmd
  split_ifs <;> simp

/-- A NET_READ is outstanding in ACCUM alone (41_framer.md R84, R89). -/
theorem request_ne_netRead (c : Configuration) {g : Gfe} (h : g.phase ≠ .accum) (need : Byte) :
    request c g ≠ some (.netRead need) := by
  cases hp : g.phase with
  | accum => exact absurd hp h
  | render => simpa [request, hp] using renderCmd_ne_netRead c g.step.toNat g.tbuf need
  | diag => simpa [request, hp] using diagCmd_ne_netRead c g.dstep.toNat need
  | listen | ack | fault => simp [request, hp]

/-- DISP_OK in RENDER: the outstanding command has its effect, and the sequencer moves on (42_sequencer.md R99). -/
theorem exec_dispOk_render {s : State} (hp : s.gfe.phase = .render) (f : s.gfe.fault = false) :
    exec .dispOk s = .next ((s.withDisplay s.displayAfterOk).withGfe (renderNext s.cfg s.gfe)).issue := by
  simp [exec, execDispOk, hp, f]

/-- Settles O51: TBUF is written with transposed glyphs alone, and RENDER starts with such a write. -/
theorem transposeBufferHighBitsStayZero : Obligations.TransposeBufferHighBitsStayZero := by
  intro i s t hi e
  obtain ⟨ht, hp⟩ | ⟨x, ht⟩ := (exec_next hi e).move.tbuf
  · rw [ht]
    exact ⟨id, fun hne => absurd rfl hne, fun hs h => absurd (hp h) hs⟩
  · have hlow : LowRows t.gfe.tbuf := ht ▸ lowRows_transpose x
    exact ⟨fun _ => hlow, fun _ => hlow, fun _ _ => hlow⟩

/-- Settles O53: the request of each STATE, and the one move that writes RXBUF. -/
theorem onlyRequestedReadsWriteTheBuffer : Obligations.OnlyRequestedReadsWriteTheBuffer := by
  refine ⟨fun s hp need => request_ne_netRead s.cfg hp need, fun i s t hi e hne => ?_⟩
  obtain hsame | ⟨hp, f, d, hd, h1, hn⟩ := (exec_next hi e).move.rxbuf
  · exact absurd hsame hne
  · have hn' : d.length ≤ 40 - s.gfe.offset.toNat := hn
    exact ⟨hp, f, d, hd, h1, by omega⟩

/-- Settles O55: the DISP_OK of command 23 completes the frame, and no other move changes FRAMES. -/
theorem framesCountCompletedFramesOnly : Obligations.FramesCountCompletedFramesOnly := by
  intro i s t h hi e
  constructor
  · rintro ⟨rfl, hp, hs⟩
    obtain ⟨f, -⟩ := h.gfe.rendering hp
    obtain ⟨-, -, hdone⟩ := renderNext_cases s.cfg s.gfe
    rw [exec_dispOk_render hp f, hdone (by simp [hs])] at e
    obtain rfl := Host.Outcome.next.inj e
    simp
  · intro hlast
    obtain hsame | ⟨hok, hp, h23⟩ := (exec_next hi e).move.frames
    · exact hsame
    · have hle : s.gfe.step ≤ 23#5 := h.gfe.stepRange
      exact absurd ⟨hok, hp, by bv_omega⟩ hlast

end Sys2Proof.Machine
end

section
/-! One frame, command by command: what each of the 24 commands does to the DISPLAY, and the run of 24 DISP_OK
(42_sequencer.md R93 to R102, 44_environment.md R123). -/

namespace Sys2Proof.Machine

/-- Command k of the first eight loads glyph slot k (42_sequencer.md R94, R96). -/
theorem renderCmd_load (c : Configuration) (y : RmGlyph) {n : Nat} (h : n ≤ 7) :
    renderCmd c n y = .dispLoadGlyph (BitVec.ofNat 8 n) y := by
  simp [renderCmd, h]

/-- Command 8 + 2k moves the cursor to the cell of k (42_sequencer.md R94, R97). -/
theorem renderCmd_move (c : Configuration) (y : RmGlyph) (k : Nat) :
    renderCmd c (8 + 2 * k) y = .dispMoveCursor (gridCol c k) (gridRow k) := by
  simp [renderCmd, show ¬ 8 + 2 * k ≤ 7 by omega]

/-- Command 9 + 2k writes code k (42_sequencer.md R94, R98). -/
theorem renderCmd_write (c : Configuration) (y : RmGlyph) (k : Nat) :
    renderCmd c (9 + 2 * k) y = .dispWriteChar (BitVec.ofNat 8 k) := by
  have hsub : 9 + 2 * k - 8 = 2 * k + 1 := by omega
  have hodd : (2 * k + 1) % 2 = 1 := by omega
  have hdiv : (2 * k + 1) / 2 = k := by omega
  simp [renderCmd, show ¬ 9 + 2 * k ≤ 7 by omega, hsub, hodd, hdiv]

/-- A command of a frame is a load, the cursor move of a code, or the write of a code (42_sequencer.md R94). -/
theorem frameCmd_cases {n : Nat} (h : n ≤ 23) :
    n ≤ 7 ∨ (∃ k : Fin 8, n = 8 + 2 * k.val) ∨ ∃ k : Fin 8, n = 9 + 2 * k.val := by
  by_cases h7 : n ≤ 7
  · exact .inl h7
  · by_cases heven : n % 2 = 0
    · exact .inr (.inl ⟨⟨(n - 8) / 2, by omega⟩, by dsimp only; omega⟩)
    · exact .inr (.inr ⟨⟨(n - 9) / 2, by omega⟩, by dsimp only; omega⟩)

/-- The column of a code as a number: it does not wrap (42_sequencer.md R93). -/
theorem gridCol_toNat (c : Configuration) (k : Nat) : (gridCol c k).toNat = c.baseCol.toNat + k % 4 := by
  have hb := c.baseCol.isLt
  simp only [gridCol, BitVec.toNat_ofNat]
  omega

/-- The row of a code as a number (42_sequencer.md R93). -/
theorem gridRow_toNat (k : Fin 8) : (gridRow k.val).toNat = k.val / 4 := by
  simp only [gridRow, BitVec.toNat_ofNat]
  omega

/-- A legal BASE_COL leaves room for the grid's four columns (00_scope.md R7). -/
theorem baseCol_le_of_legal {c : Configuration} (h : c.legal = true) : c.baseCol.toNat ≤ 12 := by
  have hle : c.baseCol ≤ 12#4 := by simpa [Configuration.legal] using h
  exact hle

/-- A loaded glyph stands in its own slot, and in no other (44_environment.md R123). -/
theorem loadGlyph_slot (d : Display) (slot : Byte) (y : RmGlyph) (k : Fin 8) :
    (d.loadGlyph slot y).slot[k] = if k.val = slot.toNat then y else d.slot[k] := by
  simp [Display.loadGlyph]

/-- A written character leaves the glyph slots (44_environment.md R123). -/
@[simp] theorem writeChar_slot (d : Display) (code : Byte) : (d.writeChar code).slot = d.slot := by
  unfold Display.writeChar
  split <;> rfl

/-- A written character shows in the cell at the cursor, and in no other (44_environment.md R123). -/
theorem writeChar_cellAt {d : Display} {col row : Byte} (hcur : d.cursor = .pos col row) (code : Byte) {r c : Nat}
    (hr : r < 2) (hc : c < 16) :
    (d.writeChar code).cellAt r c = if r = row.toNat ∧ c = col.toNat then .code code else d.cellAt r c := by
  simp only [Display.writeChar, hcur, cellAt_cursor, cellAt_mapCells d _ r c hr hc]

/-- Two codes share a cell only if they are the same (42_sequencer.md R93). -/
theorem grid_injective {b : Nat} {k j : Fin 8} (hrow : k.val / 4 = j.val / 4) (hcol : b + k.val % 4 = b + j.val % 4) :
    k = j := by
  apply Fin.ext
  omega

section Frame

variable {c : Configuration} {rxbuf : Vector Byte 40} {d : Display}

/-- Before the first command nothing is asked of the DISPLAY. -/
theorem frameSoFar_zero (c : Configuration) (rxbuf : Vector Byte 40) (d : Display) : FrameSoFar c rxbuf 0 d :=
  ⟨fun _ h => absurd h (by omega), fun _ h => absurd h (by omega), fun _ h => absurd h (by omega)⟩

/-- After all 24 commands the frame is shown. -/
theorem FrameSoFar.shown (h : FrameSoFar c rxbuf 24 d) : FrameShown c rxbuf d :=
  fun k => ⟨h.loaded k (by omega), h.written k (by omega)⟩

/-- The load of glyph n. -/
theorem FrameSoFar.load {n : Nat} (h : FrameSoFar c rxbuf n d) (hn : n ≤ 7) :
    FrameSoFar c rxbuf (n + 1) (d.loadGlyph (BitVec.ofNat 8 n) (transpose (glyphAt rxbuf n))) := by
  have hslot : (BitVec.ofNat 8 n).toNat = n := by simp only [BitVec.toNat_ofNat]; omega
  refine ⟨fun k hk => ?_, fun k hk => absurd hk (by omega), fun k hk => absurd hk (by omega)⟩
  rw [loadGlyph_slot, hslot]
  by_cases hkn : k.val = n
  · rw [if_pos hkn, hkn]
  · rw [if_neg hkn]
    exact h.loaded k (by omega)

/-- The cursor move to the cell of k. -/
theorem FrameSoFar.move {k : Fin 8} (h : FrameSoFar c rxbuf (8 + 2 * k.val) d) :
    FrameSoFar c rxbuf (8 + 2 * k.val + 1) (d.moveCursor (gridCol c k.val) (gridRow k.val)) := by
  refine ⟨fun j _ => h.loaded j (by omega), fun j hj => ?_, fun j hj => ?_⟩
  · have hcell := h.written j (by omega)
    rwa [Display.moveCursor, cellAt_cursor]
  · obtain rfl : k = j := Fin.ext (by omega)
    rfl

/-- The write of code k at the cell that the cursor is at. -/
theorem FrameSoFar.write {k : Fin 8} (h : FrameSoFar c rxbuf (9 + 2 * k.val) d) (hc : c.legal = true) :
    FrameSoFar c rxbuf (9 + 2 * k.val + 1) (d.writeChar (BitVec.ofNat 8 k.val)) := by
  have hb := baseCol_le_of_legal hc
  refine ⟨fun j _ => ?_, fun j hj => ?_, fun j hj => absurd hj (by omega)⟩
  · rw [writeChar_slot]
    exact h.loaded j (by omega)
  · rw [writeChar_cellAt (h.aimed k rfl) _ (by omega) (by omega), gridRow_toNat, gridCol_toNat]
    by_cases hjk : j = k
    · rw [if_pos (by simp [hjk]), hjk]
    · rw [if_neg fun e => hjk (grid_injective e.1 e.2)]
      exact h.written j (by omega)

/-- Each of the 24 commands, answered DISP_OK, takes the DISPLAY one command further (42_sequencer.md R94; 44_environment.md
R123). -/
theorem FrameSoFar.apply {n : Nat} (h : FrameSoFar c rxbuf n d) (hc : c.legal = true) (hn : n ≤ 23) :
    FrameSoFar c rxbuf (n + 1) (d.apply (renderCmd c n (transpose (glyphAt rxbuf (min n 7))))) := by
  obtain h7 | ⟨k, rfl⟩ | ⟨k, rfl⟩ := frameCmd_cases hn
  · rw [renderCmd_load c _ h7, Nat.min_eq_left h7]
    exact h.load h7
  · rw [renderCmd_move]
    exact h.move
  · rw [renderCmd_write]
    exact h.write hc

end Frame

/-- In RENDER the outstanding request is command STEP of the frame (42_sequencer.md R91). -/
theorem State.request_render {s : State} (hp : s.gfe.phase = .render) :
    s.request = some (renderCmd s.cfg s.gfe.step.toNat s.gfe.tbuf) := by
  simp [State.request, Machine.request, hp]

/-- In RENDER a DISP_OK has the effect of command STEP on the DISPLAY (44_environment.md R123). -/
theorem State.displayAfterOk_render {s : State} (hp : s.gfe.phase = .render) :
    s.displayAfterOk = s.display.apply (renderCmd s.cfg s.gfe.step.toNat s.gfe.tbuf) := by
  simp [State.displayAfterOk, State.request_render hp]

/-- The completion of a frame in ack-paced mode, and in delay-paced mode (42_sequencer.md R100). -/
theorem renderDone_ackPaced {c : Configuration} (h : c.mode = .ackPaced) (g : Gfe) :
    renderDone c g = { g with frames := g.frames + 1#32, step := 0#5, phase := .ack } := by
  simp [renderDone, h]
theorem renderDone_delayPaced {c : Configuration} (h : c.mode = .delayPaced) (g : Gfe) :
    renderDone c g = { g with frames := g.frames + 1#32, step := 0#5, phase := .accum, offset := 0#6 } := by
  simp [renderDone, h, enterAccum]

/-- Settles O24: the DISP_OK of command 23 runs `renderDone` under each MODE. -/
theorem lastDisplayOkCompletesTheFrame : Obligations.LastDisplayOkCompletesTheFrame := by
  intro s hp f hs
  have hdone : renderNext s.cfg s.gfe = renderDone s.cfg s.gfe := by
    obtain ⟨-, -, hdone⟩ := renderNext_cases s.cfg s.gfe
    exact hdone (by simp [hs])
  have hlast : s.displayAfterOk = s.display.apply (.dispWriteChar 7) := by
    rw [State.displayAfterOk_render hp, hs]
    exact congrArg s.display.apply (renderCmd_write s.cfg s.gfe.tbuf 7)
  rw [exec_dispOk_render hp f, hdone, hlast]
  exact ⟨fun hm => by rw [renderDone_ackPaced hm]; rfl, fun hm => by rw [renderDone_delayPaced hm]; rfl⟩

/-- A run of n + 1 equal tokens is the run of n of them and then one more. -/
theorem runTokens_replicate_succ (i : Instr) (n : Nat) (s : State) :
    runTokens (List.replicate (n + 1) i) s = (runTokens (List.replicate n i) s).bind (runTokens [i]) := by
  rw [List.replicate_succ', runTokens_append]

/-- One token run as a list. -/
theorem runTokens_singleton {i : Instr} {s t : State} (h : exec i s = .next t) : runTokens [i] s = some t := by
  simp [runTokens, h]

/-- Command n of the frame in RXBUF, with the glyph that TBUF holds when it is issued (42_sequencer.md R94, R95). -/
def frameCmd (c : Configuration) (rxbuf : Vector Byte 40) (n : Nat) : Instr :=
  renderCmd c n (transpose (glyphAt rxbuf (min n 7)))

/-- In RENDER the invariant makes command STEP of the frame in RXBUF the outstanding request (10_state.md R29 I7, I8). -/
theorem State.Inv.request_render {s : State} (h : s.Inv) (hp : s.gfe.phase = .render) :
    s.request = some (frameCmd s.cfg s.gfe.rxbuf s.gfe.step.toNat) := by
  obtain ⟨-, ht⟩ := h.gfe.rendering hp
  rw [State.request_render hp, ht, frameCmd]

/-- A display command before the last stays in RENDER and advances STEP (42_sequencer.md R99). -/
theorem renderNext_advances (c : Configuration) {g : Gfe} (h : g.step.toNat < 23) :
    (renderNext c g).phase = g.phase ∧ (renderNext c g).step.toNat = g.step.toNat + 1 := by
  have hstep : (g.step + 1#5).toNat = g.step.toNat + 1 := by bv_omega
  obtain ⟨hload, hwrite, -⟩ := renderNext_cases c g
  by_cases h6 : g.step.toNat ≤ 6
  · rw [hload h6]
    exact ⟨rfl, hstep⟩
  · rw [hwrite (by omega) h]
    exact ⟨rfl, hstep⟩

/-- What the GFE asks for once a frame is complete, under each MODE (42_sequencer.md R100). -/
theorem request_renderDone_ackPaced {c : Configuration} (h : c.mode = .ackPaced) (g : Gfe) :
    request c (renderDone c g) = some (.netWrite 0x41#8) := by
  rw [renderDone_ackPaced h]
  rfl
theorem request_renderDone_delayPaced {c : Configuration} (h : c.mode = .delayPaced) (g : Gfe) :
    request c (renderDone c g) = some (.netRead 40#8) := by
  rw [renderDone_delayPaced h]
  rfl

/-- The machine u is s after n DISP_OK of a frame that s has just begun: still in RENDER, the record untouched, the frame
shown so far, the commands 1 to n issued in order. -/
structure FrameAfter (s : State) (n : Nat) (u : State) : Prop where
  inv : u.Inv
  cfg : u.cfg = s.cfg
  phase : u.gfe.phase = .render
  step : u.gfe.step.toNat = n
  rxbuf : u.gfe.rxbuf = s.gfe.rxbuf
  frames : u.gfe.frames = s.gfe.frames
  display : FrameSoFar s.cfg s.gfe.rxbuf n u.display
  emitted : u.emitted = s.emitted ++ (List.range n).map fun j => frameCmd s.cfg s.gfe.rxbuf (j + 1)

/-- The machine that has just begun a frame is after none of its commands. -/
theorem frameAfter_zero {s : State} (h : s.Inv) (hp : s.gfe.phase = .render) (hs : s.gfe.step = 0#5) :
    FrameAfter s 0 s :=
  ⟨h, rfl, hp, by simp [hs], rfl, rfl, frameSoFar_zero _ _ _, by simp⟩

section Run

variable {s u : State} {n : Nat}

/-- The outcome of the DISP_OK of command n. -/
theorem FrameAfter.exec_dispOk (h : FrameAfter s n u) :
    exec .dispOk u = .next ((u.withDisplay u.displayAfterOk).withGfe (renderNext u.cfg u.gfe)).issue :=
  exec_dispOk_render h.phase (h.inv.gfe.rendering h.phase).1

/-- The DISP_OK of command n takes the DISPLAY one command further. -/
theorem FrameAfter.displayAfterOk (h : FrameAfter s n u) (hn : n ≤ 23) :
    FrameSoFar s.cfg s.gfe.rxbuf (n + 1) u.displayAfterOk := by
  have hd : u.displayAfterOk = u.display.apply (frameCmd s.cfg s.gfe.rxbuf n) := by
    simp [State.displayAfterOk, h.inv.request_render h.phase, h.cfg, h.rxbuf, h.step]
  rw [hd]
  exact h.display.apply (h.cfg ▸ h.inv.legal) hn

/-- The DISP_OK of a command before the last takes the machine one command further (42_sequencer.md R99). -/
theorem FrameAfter.succ (h : FrameAfter s n u) (hn : n < 23) :
    ∃ t, exec .dispOk u = .next t ∧ FrameAfter s (n + 1) t := by
  have hlt : u.gfe.step.toNat < 23 := h.step.symm ▸ hn
  obtain ⟨hphase, hstep⟩ := renderNext_advances u.cfg hlt
  have e := h.exec_dispOk
  set t := ((u.withDisplay u.displayAfterOk).withGfe (renderNext u.cfg u.gfe)).issue
  have inv : t.Inv := exec_inv h.inv e
  have cfg : t.cfg = s.cfg := h.cfg
  have phase : t.gfe.phase = .render := hphase.trans h.phase
  have step : t.gfe.step.toNat = n + 1 := hstep.trans (by rw [h.step])
  have rxbuf : t.gfe.rxbuf = s.gfe.rxbuf := (renderNext_rxbuf u.cfg u.gfe).trans h.rxbuf
  have frames : t.gfe.frames = s.gfe.frames := (renderNext_frames u.cfg hlt).trans h.frames
  have request : t.request = some (frameCmd s.cfg s.gfe.rxbuf (n + 1)) := by
    rw [inv.request_render phase, cfg, rxbuf, step]
  have emitted : t.emitted = u.emitted ++ t.request.toList := rfl
  refine ⟨t, e, inv, cfg, phase, step, rxbuf, frames, h.displayAfterOk hn.le, ?_⟩
  rw [emitted, request, h.emitted, List.range_succ]
  simp

/-- The first 23 DISP_OK, or fewer, all run. -/
theorem frameAfter_run (h : FrameAfter s 0 s) (hn : n ≤ 23) :
    ∃ u, runTokens (List.replicate n .dispOk) s = some u ∧ FrameAfter s n u := by
  induction n with
  | zero => exact ⟨s, rfl, h⟩
  | succ n ih =>
    obtain ⟨u, hu, hafter⟩ := ih (by omega)
    obtain ⟨t, e, ht⟩ := hafter.succ (by omega)
    exact ⟨t, by rw [runTokens_replicate_succ, hu, Option.bind_some, runTokens_singleton e], ht⟩

/-- The DISP_OK of command 23 completes the frame: S is as `renderDone` leaves it, and the frame is shown. -/
theorem FrameAfter.done (h : FrameAfter s 23 u) :
    ∃ t, exec .dispOk u = .next t ∧ t.gfe = renderDone s.cfg u.gfe ∧ FrameShown s.cfg s.gfe.rxbuf t.display ∧
      t.emitted = u.emitted ++ (request s.cfg (renderDone s.cfg u.gfe)).toList := by
  obtain ⟨-, -, hdone⟩ := renderNext_cases s.cfg u.gfe
  refine ⟨_, h.exec_dispOk, ?_, (h.displayAfterOk le_rfl).shown, ?_⟩ <;>
    simp [State.request, h.cfg, hdone h.step.ge]

end Run

/-- Settles O52: 23 DISP_OK by induction, then the one that completes the frame. -/
theorem frameIsRenderedInOrder : Obligations.FrameIsRenderedInOrder := by
  intro s h hp hs
  obtain ⟨u, hu, hafter⟩ := frameAfter_run (frameAfter_zero h hp hs) le_rfl
  obtain ⟨t, e, hgfe, hshown, hemit⟩ := hafter.done
  refine ⟨t, ?_, ?_, ?_, hshown, ?_⟩
  · rw [runTokens_replicate_succ, hu, Option.bind_some, runTokens_singleton e]
  · rw [hgfe, renderDone_frames, hafter.frames]
  · rw [hgfe, renderDone_rxbuf, hafter.rxbuf]
  · rw [hemit, hafter.emitted]
    cases hm : s.cfg.mode with
    | ackPaced => rw [request_renderDone_ackPaced hm]; rfl
    | delayPaced => rw [request_renderDone_delayPaced hm]; rfl

end Sys2Proof.Machine
end

section
/-! The reassembly of a record from the reads that bring it: what `MemWrite` puts in RXBUF, what one non-empty read does to S
and to the machine, and any run of such reads up to the 40th byte (20_memory.md R42, 41_framer.md R85). -/

namespace Sys2Proof.Machine

/-- Written inside the buffer, the new bytes stand right after the first `a` old ones (00_scope.md R11). -/
theorem memWrite_take {m : Nat} (b : Vector Byte m) {a : Nat} {v : List Byte} (h : a + v.length ≤ m) :
    (memWrite b a v).toList.take (a + v.length) = b.toList.take a ++ v := by
  apply List.ext_getElem
  · simp
    omega
  · intro i hi _
    obtain ⟨hv, hm⟩ : i < a + v.length ∧ i < m := by simpa using hi
    have hget : ((memWrite b a v).toList.take (a + v.length))[i] = (memWrite b a v)[i] := by simp
    rw [hget, memWrite_get _ _ _ _ hm]
    by_cases hold : i < a
    · have hin : i < (b.toList.take a).length := by simp; omega
      rw [if_neg (by omega), List.getElem_append_left hin]
      simp
    · have hnew : i - a < v.length := by omega
      simp [Nat.le_of_not_lt hold, hv, hnew, show min a m = a by omega]

/-- Where a read puts its bytes does not depend on whether it completes the record (41_framer.md R85). -/
@[simp] theorem acceptBytes_rxbuf (d : List Byte) (g : Gfe) :
    (acceptBytes d g).rxbuf = memWrite g.rxbuf g.offset.toNat d := by
  unfold acceptBytes; dsimp only; split <;> rfl
@[simp] theorem acceptBytes_offset (d : List Byte) (g : Gfe) :
    (acceptBytes d g).offset = g.offset + BitVec.ofNat 6 d.length := by
  unfold acceptBytes; dsimp only; split <;> rfl
@[simp] theorem acceptBytes_fault (d : List Byte) (g : Gfe) : (acceptBytes d g).fault = g.fault := by
  unfold acceptBytes; dsimp only; split <;> rfl

/-- OFFSET after a read that fits the record moves on by the bytes read (41_framer.md R85). -/
theorem acceptBytes_offset_toNat {d : List Byte} {g : Gfe} (h : g.offset.toNat + d.length ≤ 40) :
    (acceptBytes d g).offset.toNat = g.offset.toNat + d.length := by
  rw [acceptBytes_offset, Gfe.offset_add_toNat (by bv_omega) (by unfold Gfe.need; omega)]

/-- A read that leaves bytes missing leaves STATE (41_framer.md R85). -/
theorem acceptBytes_phase_of_lt {d : List Byte} {g : Gfe} (h : g.offset.toNat + d.length < 40) :
    (acceptBytes d g).phase = g.phase := by
  have hne : g.offset + BitVec.ofNat 6 d.length ≠ 40#6 := by bv_omega
  simp [acceptBytes, hne]

/-- The read that brings the 40th byte starts RENDER at STEP 0 (41_framer.md R85, 20_memory.md R42). -/
theorem acceptBytes_of_complete {d : List Byte} {g : Gfe} (h : g.offset.toNat + d.length = 40) :
    (acceptBytes d g).phase = .render ∧ (acceptBytes d g).step = 0#5 ∧ (acceptBytes d g).offset = 40#6 := by
  have heq : g.offset + BitVec.ofNat 6 d.length = 40#6 := by bv_omega
  simp [acceptBytes, heq]

/-- RXBUF up to the new OFFSET: the bytes it held up to the old one, then the bytes read. -/
theorem acceptBytes_received {d : List Byte} {g : Gfe} (h : g.offset.toNat + d.length ≤ 40) :
    (acceptBytes d g).rxbuf.toList.take (g.offset.toNat + d.length) =
      g.rxbuf.toList.take g.offset.toNat ++ d := by
  rw [acceptBytes_rxbuf, memWrite_take _ h]

/-- A non-empty read of at most the bytes asked for runs, and S is then as `acceptBytes` says (41_framer.md R85). -/
theorem exec_netData_accum {s : State} {d : List Byte} (hp : s.gfe.phase = .accum) (f : s.gfe.fault = false)
    (h1 : 1 ≤ d.length) (hn : d.length ≤ s.gfe.need) :
    exec (.netData d) s = .next ((s.withGfe (acceptBytes d s.gfe)).withPeer
      { s.peer with pending := s.peer.pending.drop d.length }).issue := by
  have h0 : d.length ≠ 0 := by omega
  simp [exec, execNetData, receive, hp, f, h0, hn]

/-- A run of tokens that starts with one that answers goes on with the others. -/
theorem runTokens_cons {i : Instr} {s t : State} (is : List Instr) (h : exec i s = .next t) :
    runTokens (i :: is) s = runTokens is t := by
  simp [runTokens, h]

/-- Chunks none of which is empty are no chunks at all once they hold no byte. -/
theorem chunks_eq_nil {chunks : List (List Byte)} (hne : ∀ c ∈ chunks, 1 ≤ c.length)
    (h : chunks.flatten.length = 0) : chunks = [] := by
  refine List.eq_nil_iff_forall_not_mem.2 fun c hc => ?_
  have hnil : c = [] := List.flatten_eq_nil_iff.1 (List.length_eq_zero_iff.1 h) c hc
  simpa [hnil] using hne c hc

/-- From any OFFSET below 40, non-empty chunks that bring just the missing bytes complete the record: what RXBUF held up
to OFFSET, then the chunks in order (20_memory.md R42). -/
theorem runTokens_netData_completes (chunks : List (List Byte)) (s : State) (hp : s.gfe.phase = .accum)
    (f : s.gfe.fault = false) (ho : s.gfe.offset.toNat < 40) (hne : ∀ c ∈ chunks, 1 ≤ c.length)
    (hsum : s.gfe.offset.toNat + chunks.flatten.length = 40) :
    ∃ t, runTokens (chunks.map .netData) s = some t ∧
      t.gfe.rxbuf.toList = s.gfe.rxbuf.toList.take s.gfe.offset.toNat ++ chunks.flatten ∧
      t.gfe.phase = .render ∧ t.gfe.step = 0#5 ∧ t.gfe.offset = 40#6 := by
  induction chunks generalizing s with
  | nil => exact absurd hsum ho.ne
  | cons d rest ih =>
    obtain ⟨h1, hrest⟩ := List.forall_mem_cons.1 hne
    have hlen : s.gfe.offset.toNat + (d.length + rest.flatten.length) = 40 := by simpa using hsum
    have hle : s.gfe.offset.toNat + d.length ≤ 40 := by omega
    obtain ⟨u, e, hu⟩ : ∃ u, exec (.netData d) s = .next u ∧ u.gfe = acceptBytes d s.gfe :=
      ⟨_, exec_netData_accum hp f h1 (by unfold Gfe.need; omega), rfl⟩
    have hreceived := acceptBytes_received hle
    rw [List.map_cons, runTokens_cons _ e, List.flatten_cons]
    by_cases hlast : s.gfe.offset.toNat + d.length = 40
    · obtain rfl : rest = [] := chunks_eq_nil hrest (by omega)
      have hwhole : u.gfe.rxbuf.toList = s.gfe.rxbuf.toList.take s.gfe.offset.toNat ++ d := by
        rw [hu, ← hreceived, List.take_of_length_le (by simp [hlast])]
      exact ⟨u, rfl, by simpa using hwhole, hu ▸ acceptBytes_of_complete hlast⟩
    · have hoffset : u.gfe.offset.toNat = s.gfe.offset.toNat + d.length := by
        rw [hu, acceptBytes_offset_toNat hle]
      have hphase : u.gfe.phase = .accum := by rw [hu, acceptBytes_phase_of_lt (by omega), hp]
      have hfault : u.gfe.fault = false := by rw [hu, acceptBytes_fault, f]
      obtain ⟨t, hrun, hrx, hend⟩ := ih u hphase hfault (by omega) hrest (by omega)
      exact ⟨t, hrun, by rw [hrx, hoffset, hu, hreceived, List.append_assoc], hend⟩

/-- Settles O18: the run of the chunks from OFFSET 0, where RXBUF holds nothing of the record yet. -/
theorem anyChunkingReassemblesTheRecord : Obligations.AnyChunkingReassemblesTheRecord := by
  intro s chunks hp f ho hne hlen
  obtain ⟨t, hrun, hrx, hend⟩ :=
    runTokens_netData_completes chunks s hp f (by simp [ho]) hne (by simpa [ho] using hlen)
  exact ⟨t, hrun, by simpa [ho] using hrx, hend⟩

end Sys2Proof.Machine
end

section
/-! The encoding (30_encoding.md R61 to R70): what a known tag's payload looks like, what the decoder answers on a known and
on a reserved tag, and that decoding and encoding are inverse to each other. -/

namespace Sys2Proof

/-- How many payload bytes a token of a format has, read from the bytes after its tag; none where the count byte of F3 is
missing (30_encoding.md R61, R68). -/
def Format.payloadLength : Format → List Byte → Option Nat
  | .f0, _ => some 0
  | .f1, _ => some 1
  | .f2, _ => some 2
  | .f3, s => s.head?.map (fun n => 1 + n.toNat)
  | .f4, _ => some 9
  | .f5, _ => some 5

/-- The bytes p are one whole payload of the format. -/
def Format.Whole (f : Format) (p : List Byte) : Prop := f.payloadLength p = some p.length

/-- A payload is whole in format F3 exactly when its count byte counts the bytes after it (30_encoding.md R61). -/
theorem whole_f3_cons {n : Byte} {d : List Byte} : Format.f3.Whole (n :: d) ↔ d.length = n.toNat := by
  simp only [Format.Whole, Format.payloadLength, List.head?_cons, Option.map_some, Option.some.injEq, List.length_cons]
  omega

/-- The bytes that the length decoding cuts off the head of a trace are a whole payload. -/
theorem whole_of_payloadLength_append {f : Format} {p rest : List Byte}
    (h : f.payloadLength (p ++ rest) = some p.length) : f.Whole p := by
  cases f with
  | f3 =>
    cases p with
    | nil => simp [Format.payloadLength] at h
    | cons => exact h
  | f0 | f1 | f2 | f4 | f5 => exact h

/-- The tag map has a row for every token, with its format and direction (30_encoding.md R62). -/
theorem tagMap_row (i : Instr) : Laws.TagMap.Statement i := by
  cases i <;> rfl

/-- The tag map gives each token its own format (30_encoding.md R62). -/
theorem format_of_rowOfTag {i : Instr} {row : TagRow} (h : rowOfTag i.tag = some row) : row.format = i.format := by
  obtain ⟨hf, -⟩ : row.format = i.format ∧ row.direction = i.direction := by
    simpa [Laws.TagMap.Statement, h] using tagMap_row i
  exact hf

/-- No token has a reserved tag (30_encoding.md R62, R69). -/
theorem rowOfTag_tag_ne_none (i : Instr) : rowOfTag i.tag ≠ none := by
  intro h
  simpa [Laws.TagMap.Statement, h] using tagMap_row i

/-- The length decoding finds the end of every well-formed token (30_encoding.md R68). -/
theorem tokenLength_encode (i : Instr) : Laws.TokenLength.Statement i := by
  cases i
  case netData d => exact Laws.TokenLength.netData d
  case dispWriteText t => exact Laws.TokenLength.dispWriteText t
  case dispLoadGlyph slot rows => exact Laws.TokenLength.dispLoadGlyph slot rows
  all_goals exact fun _ _ => rfl

/-- The length decoding on a known tag: the tag and the payload, or TRUNCATED without a count byte (30_encoding.md R68). -/
theorem tokenLength_of_row {tag : Byte} {row : TagRow} (h : rowOfTag tag = some row) (s : List Byte) :
    tokenLength (tag :: s) = (row.format.payloadLength s).elim (.error .truncated) (fun n => .ok (n + 1)) := by
  cases hf : row.format with
  | f3 =>
    cases s with
    | nil => simp [tokenLength, h, hf, Format.payloadLength]
    | cons n s =>
      have hlen : 2 + n.toNat = 1 + n.toNat + 1 := by omega
      simp [tokenLength, h, hf, Format.payloadLength, hlen]
  | f0 | f1 | f2 | f4 | f5 => simp [tokenLength, h, hf, Format.payloadLength]

/-- Every format reads its fields from a whole payload (30_encoding.md R61). -/
theorem fieldsF0_isSome (i : Instr) {p : List Byte} (h : Format.f0.Whole p) : (fieldsF0 i p).isSome := by
  match p, Option.some.inj h with
  | [], _ => rfl
theorem fieldsF1_isSome (mk : Byte → Instr) {p : List Byte} (h : Format.f1.Whole p) : (fieldsF1 mk p).isSome := by
  match p, Option.some.inj h with
  | [_], _ => rfl
theorem fieldsF2_isSome (mk : Byte → Byte → Instr) {p : List Byte} (h : Format.f2.Whole p) : (fieldsF2 mk p).isSome := by
  match p, Option.some.inj h with
  | [_, _], _ => rfl
theorem fieldsF3_isSome (mk : List Byte → Instr) {p : List Byte} (h : Format.f3.Whole p) : (fieldsF3 mk p).isSome := by
  match p, h with
  | _ :: _, _ => rfl
theorem fieldsF4_isSome (mk : Byte → RmGlyph → Instr) {p : List Byte} (h : Format.f4.Whole p) :
    (fieldsF4 mk p).isSome := by
  match p, Option.some.inj h with
  | [_, _, _, _, _, _, _, _, _], _ => rfl
theorem fieldsF5_isSome (mk : Byte → Word → Instr) {p : List Byte} (h : Format.f5.Whole p) : (fieldsF5 mk p).isSome := by
  match p, Option.some.inj h with
  | [_, _, _, _, _], _ => rfl

/-- Every row of the tag map has its fields read in the row's own format (30_encoding.md R62). -/
theorem assemble_isSome_of_mem (p : List Byte) : ∀ row ∈ tagMap, row.format.Whole p → (assemble row.tag p).isSome := by
  simp only [tagMap, List.forall_mem_cons, List.not_mem_nil, false_implies, implies_true, and_true]
  exact ⟨fieldsF0_isSome .reset, fieldsF1_isSome .statRead, fieldsF5_isSome .statValue, fieldsF0_isSome .netAccept,
    fieldsF1_isSome .netRead, fieldsF1_isSome .netWrite, fieldsF0_isSome .netAccepted, fieldsF3_isSome .netData,
    fieldsF0_isSome .netReadErr, fieldsF0_isSome .netWriteDone, fieldsF0_isSome .netWriteErr, fieldsF0_isSome .dispClear,
    fieldsF3_isSome .dispWriteText, fieldsF4_isSome .dispLoadGlyph, fieldsF2_isSome .dispMoveCursor,
    fieldsF1_isSome .dispWriteChar, fieldsF0_isSome .dispOk, fieldsF0_isSome .dispErr⟩

/-- A known tag with a whole payload is a token. -/
theorem assemble_isSome {tag : Byte} {row : TagRow} {p : List Byte} (h : rowOfTag tag = some row)
    (hp : row.format.Whole p) : (assemble tag p).isSome := by
  obtain rfl : row.tag = tag := by simpa using List.find?_some h
  exact assemble_isSome_of_mem p row (List.mem_of_find?_eq_some h) hp

/-- On a known tag the decoder reads one whole payload or answers TRUNCATED (30_encoding.md R68, R70). -/
theorem decode_of_row {tag : Byte} {row : TagRow} (h : rowOfTag tag = some row) (s : List Byte) :
    (∃ p rest i, p ++ rest = s ∧ row.format.Whole p ∧ assemble tag p = some i ∧ decode (tag :: s) = .ok (i, rest)) ∨
      decode (tag :: s) = .error .truncated := by
  have hlen := tokenLength_of_row h s
  cases hn : row.format.payloadLength s with
  | none => exact .inr (by simp [decode, hlen, hn])
  | some n =>
    cases ht : takeExactly n s with
    | none => exact .inr (by simp [decode, hlen, hn, ht])
    | some pr =>
      obtain ⟨p, rest⟩ := pr
      obtain ⟨rfl, rfl⟩ := takeExactly_some ht
      have hp : row.format.Whole p := whole_of_payloadLength_append hn
      obtain ⟨i, hi⟩ := Option.isSome_iff_exists.1 (assemble_isSome h hp)
      exact .inl ⟨p, rest, i, rfl, hp, hi, by simp [decode, hlen, hn, ht, hi]⟩

/-- On a reserved tag the decoder answers UNKNOWN_TAG, whatever follows (30_encoding.md R69, R70). -/
theorem decode_of_reserved {tag : Byte} (h : rowOfTag tag = none) (s : List Byte) :
    decode (tag :: s) = .error .unknownTag := by
  simp [decode, tokenLength, h]

/-- UNKNOWN_TAG is the verdict on a tag without a row, and on no other (30_encoding.md R69, R70). -/
theorem decode_eq_unknownTag_iff (tag : Byte) (s : List Byte) :
    decode (tag :: s) = .error .unknownTag ↔ rowOfTag tag = none := by
  refine ⟨fun hd => ?_, fun h => decode_of_reserved h s⟩
  cases h : rowOfTag tag with
  | none => rfl
  | some row =>
    obtain ⟨_, _, _, -, -, -, hok⟩ | htr := decode_of_row h s
    · simp [hok] at hd
    · simp [htr] at hd

/-- A whole payload of format F3 is the count of its bytes and the bytes, at most 255 of them (30_encoding.md R61). -/
theorem whole_f3_count {n : Byte} {d : List Byte} (h : Format.f3.Whole (n :: d)) :
    fitsCount d = true ∧ BitVec.ofNat 8 d.length = n := by
  have hlen := whole_f3_cons.1 h
  refine ⟨?_, by simp [hlen]⟩
  have hlt := n.isLt
  simp only [fitsCount, decide_eq_true_eq]
  omega

/-- A whole payload of its own format makes a token well formed (30_encoding.md R61). -/
theorem wellFormed_of_whole {i : Instr} (h : i.format.Whole i.payload) : wellFormed i = true := by
  cases i
  case netData d => exact (whole_f3_count h).1
  case dispWriteText t => exact (whole_f3_count h).1
  all_goals rfl

/-- A token assembled from a whole payload of its own format has that payload: its count byte too is pinned. -/
theorem payload_of_assemble {tag : Byte} {p : List Byte} {i : Instr} (h : assemble tag p = some i)
    (hp : i.format.Whole p) : p = i.payload := by
  obtain ⟨-, hsame | ⟨n, d, rfl, rfl | rfl⟩⟩ := assemble_some h
  · exact hsame
  all_goals
    obtain ⟨-, hcount⟩ := whole_f3_count hp
    simp [Instr.payload, hcount]

/-- Settles O1: the length decoding finds the end of the token, and its fields are read back from its own payload. -/
theorem decodeOfEncode : Obligations.DecodeOfEncode := by
  intro i rest h
  have hlen := tokenLength_encode i h rest
  simp only [encode_head, List.cons_append, List.length_cons] at hlen ⊢
  simp [decode, hlen, takeExactly_append, assemble_payload]

/-- Settles O2: the decoder has read a whole payload of the token's own format, which is the one `encode` writes. -/
theorem encodeOfDecode : Obligations.EncodeOfDecode := by
  intro s i rest hd
  cases s with
  | nil => simp [decode] at hd
  | cons tag s =>
    cases h : rowOfTag tag with
    | none => simp [decode_of_reserved h] at hd
    | some row =>
      obtain ⟨p, rest', j, rfl, hp, ha, hok⟩ | htr := decode_of_row h s
      · obtain ⟨rfl, rfl⟩ : j = i ∧ rest' = rest := by simpa [hok] using hd
        obtain ⟨rfl, -⟩ := assemble_some ha
        rw [format_of_rowOfTag h] at hp
        obtain rfl := payload_of_assemble ha hp
        exact ⟨wellFormed_of_whole hp, rfl⟩
      · simp [htr] at hd

/-- With a bound of at least its length, the concatenation of well-formed tokens is read back token by token. -/
theorem decodeTraceFrom_flatMap_encode (is : List Instr) (h : ∀ i ∈ is, wellFormed i = true) (fuel p : Nat)
    (hf : (is.flatMap encode).length ≤ fuel) : decodeTraceFrom fuel p (is.flatMap encode) = (is, none) := by
  induction is generalizing fuel p with
  | nil => cases fuel <;> rfl
  | cons i is ih =>
    obtain ⟨hi, his⟩ := List.forall_mem_cons.1 h
    have hd := decodeOfEncode i (is.flatMap encode) hi
    simp only [List.flatMap_cons, encode_head, List.cons_append, List.length_cons, List.length_append] at hd hf ⊢
    cases fuel with
    | zero => omega
    | succ fuel =>
      have hlater := fun q => ih his fuel q (by omega)
      simp [decodeTraceFrom, hd, hlater]

/-- Settles O3: the bound of `decodeTrace` is the length of the trace itself. -/
theorem traceIsConcatenationOfTokens : Obligations.TraceIsConcatenationOfTokens :=
  fun is h => decodeTraceFrom_flatMap_encode is h _ 0 le_rfl

/-- A tag without a row differs from each tag of the map. -/
theorem rowOfTag_eq_none_iff (tag : Byte) : rowOfTag tag = none ↔ ∀ row ∈ tagMap, row.tag ≠ tag := by
  simp [rowOfTag]

/-- Settles O4: the ranges of 30_encoding.md R69 are the tags that no row of the map has. -/
theorem reservedTagsAreUnknown : Obligations.ReservedTagsAreUnknown := by
  intro tag rest
  rw [decode_eq_unknownTag_iff, rowOfTag_eq_none_iff]
  simp only [tagMap, List.forall_mem_cons, List.not_mem_nil, false_implies, implies_true, and_true]
  bv_omega

/-- A token cut off at the head of a trace is still there when more bytes follow: no token begins another one. -/
theorem decode_append {s : List Byte} {i : Instr} {rest : List Byte} (h : decode s = .ok (i, rest)) (more : List Byte) :
    decode (s ++ more) = .ok (i, rest ++ more) := by
  obtain ⟨hwf, rfl⟩ := encodeOfDecode s i rest h
  rw [List.append_assoc]
  exact decodeOfEncode i (rest ++ more) hwf

/-- Settles O5: a token read from the cut bytes would be the whole one, and its tag is not reserved. -/
theorem cutTokensAreTruncated : Obligations.CutTokensAreTruncated := by
  intro i n hwf h0 hn
  cases hd : decode ((encode i).take n) with
  | ok r =>
    obtain ⟨j, rest⟩ := r
    have hwhole : decode (encode i) = .ok (i, []) := by simpa using decodeOfEncode i [] hwf
    have hcut := decode_append hd ((encode i).drop n)
    rw [List.take_append_drop, hwhole] at hcut
    obtain ⟨-, -, hdrop⟩ : i = j ∧ rest = [] ∧ (encode i).length ≤ n := by simpa using hcut
    omega
  | error e =>
    cases e with
    | truncated => rfl
    | unknownTag =>
      obtain ⟨k, rfl⟩ : ∃ k, n = k + 1 := ⟨n - 1, by omega⟩
      exact absurd ((decode_eq_unknownTag_iff i.tag (i.payload.take k)).1 hd) (rowOfTag_tag_ne_none i)

/-- Settles O6: the decoder run on each of the eight strings. -/
theorem sampleWordsDecode : Obligations.SampleWordsDecode := ⟨rfl, rfl, rfl, rfl, rfl, rfl, rfl, rfl⟩

end Sys2Proof
end

section
/-! What the GFE puts on its ports: the request of each STATE is in the ranges of 30_encoding.md R66, and a trace line that
shows anything else is refused (log 9, log 10). -/

namespace Sys2Proof.Machine

/-- A byte whose bits 7:5 are zero is at most 0x1F. -/
theorem toNat_le_of_bits_high {v : Byte} (h : ∀ b, 5 ≤ b → bit v b = false) : v.toNat ≤ 0x1F := by
  have hlt : v.toNat < 2 ^ 5 := Nat.lt_pow_two_of_testBit v.toNat h
  omega

/-- The rows of a glyph with bits 7:5 zero are in the range of DISP_LOAD_GLYPH (30_encoding.md R66). -/
theorem LowRows.all_le {y : RmGlyph} (h : LowRows y) : y.toList.all (fun d => decide (d.toNat ≤ 0x1F)) = true := by
  rw [List.all_eq_true]
  intro d hd
  obtain ⟨r, hr, rfl⟩ := List.getElem_of_mem hd
  have hr8 : r < 8 := by simpa using hr
  exact decide_eq_true (toNat_le_of_bits_high (by simpa using h ⟨r, hr8⟩))

/-- The token is a request within its ranges: it is emittable and none of the SUPERVISOR's (30_encoding.md R63, R66). -/
def RequestInRange (q : Instr) : Prop := emittable q = true ∧ q.port ≠ .supervisor

/-- Every command of a frame is in range (30_encoding.md R66, 42_sequencer.md R94). -/
theorem renderCmd_inRange {c : Configuration} (hc : c.legal = true) {n : Nat} (hn : n ≤ 23) {y : RmGlyph}
    (hy : LowRows y) : RequestInRange (renderCmd c n y) := by
  obtain h7 | ⟨k, rfl⟩ | ⟨k, rfl⟩ := frameCmd_cases hn
  · have hslot : (BitVec.ofNat 8 n).toNat ≤ 7 := by rw [BitVec.toNat_ofNat]; omega
    rw [renderCmd_load c y h7]
    exact ⟨by simp only [emittable, hy.all_le, hslot, decide_true, Bool.and_self], by simp [Instr.port]⟩
  · have hcol := gridCol_toNat c k.val
    have hrow := gridRow_toNat k
    have hbase := baseCol_le_of_legal hc
    rw [renderCmd_move]
    exact ⟨decide_eq_true ⟨by omega, by omega⟩, by simp [Instr.port]⟩
  · have hcode : (BitVec.ofNat 8 k.val).toNat ≤ 7 := by rw [BitVec.toNat_ofNat]; omega
    rw [renderCmd_write]
    exact ⟨decide_eq_true hcode, by simp [Instr.port]⟩

/-- Every command of the diagnostic is in range: its text is cut to 16 bytes (30_encoding.md R66, 42_sequencer.md R107). -/
theorem diagCmd_inRange {c : Configuration} {d : Nat} {q : Instr} (h : diagCmd c d = some q) : RequestInRange q := by
  unfold diagCmd at h
  split_ifs at h <;> obtain rfl := Option.some.inj h
  · exact ⟨rfl, by simp [Instr.port]⟩
  · exact ⟨rfl, by simp [Instr.port]⟩
  · have hlen : (diagLine c).length ≤ 16 := List.length_take_le 16 c.diagText
    exact ⟨decide_eq_true hlen, by simp [Instr.port]⟩

/-- Under the invariant the outstanding request is in range in every STATE (30_encoding.md R66, 42_sequencer.md R91). -/
theorem request_inRange {s : State} (h : s.Inv) {q : Instr} (hq : s.request = some q) : RequestInRange q := by
  unfold State.request request at hq
  cases hp : s.gfe.phase with
  | fault => simp [hp] at hq
  | diag => exact diagCmd_inRange (by simpa [hp] using hq)
  | listen =>
    obtain rfl : .netAccept = q := by simpa [hp] using hq
    exact ⟨rfl, by simp [Instr.port]⟩
  | accum =>
    obtain rfl : .netRead (BitVec.ofNat 8 s.gfe.need) = q := by simpa [hp] using hq
    obtain ⟨hoff, -⟩ := h.gfe.i2 hp
    have hle : s.gfe.offset.toNat ≤ 39 := hoff
    have hneed : (BitVec.ofNat 8 s.gfe.need).toNat = 40 - s.gfe.offset.toNat := by
      rw [BitVec.toNat_ofNat, Gfe.need]; omega
    exact ⟨decide_eq_true ⟨by omega, by omega⟩, by simp [Instr.port]⟩
  | render =>
    obtain rfl : renderCmd s.cfg s.gfe.step.toNat s.gfe.tbuf = q := by simpa [hp] using hq
    obtain ⟨-, ht⟩ := h.gfe.rendering hp
    exact renderCmd_inRange h.legal h.gfe.stepRange (ht ▸ lowRows_transpose _)
  | ack =>
    obtain rfl : .netWrite ackChar = q := by simpa [hp] using hq
    exact ⟨rfl, by simp [Instr.port]⟩

/-- Settles O57: after RESET the log holds NET_ACCEPT; any other token adds nothing, the value a status read asks for, or
the next request, which the invariant of the next state keeps in range. -/
theorem emittedTokensAreInRange : Obligations.EmittedTokensAreInRange := by
  intro i s t h e
  by_cases hi : i = .reset
  · subst hi
    obtain ⟨-, rfl⟩ := (execReset_next s t).1 e
    exact ⟨[.netAccept], by simp, by simp [emittable], by simp⟩
  · have n := exec_next hi e
    rw [if_neg hi]
    cases n.emits with
    | nothing _ hem => exact ⟨[], by simp [hem], by simp, by simp⟩
    | status a hread _ hem =>
      refine ⟨_, hem, by simp [emittable], fun b v hb => ?_⟩
      obtain ⟨rfl, -⟩ : b = a ∧ v = statValue a s.cfg s.gfe := by simpa using hb
      exact hread
    | next _ _ _ hem =>
      have hrange : ∀ q ∈ t.request.toList, RequestInRange q := fun q hq =>
        request_inRange (exec_inv h e) (Option.mem_toList.1 hq)
      rw [← n.cfg] at hem
      refine ⟨t.request.toList, hem, fun q hq => (hrange q hq).1, fun a v hv => ?_⟩
      exact absurd rfl (hrange _ hv).2

/-- STAT_VALUE is refused unless it is the answer due (43_status_port.md R114; log 9). -/
theorem execStatValue_refused {a : Byte} {v : Word} {s : State}
    (h : ∀ b, s.due = .status b → Instr.statValue a v ≠ .statValue b (statValue b s.cfg s.gfe)) :
    execStatValue a v s = .refused .notEmitted := by
  have hdue : ¬(s.due = .status a ∧ v = statValue a s.cfg s.gfe) := fun ⟨hd, hv⟩ => h a hd (hv ▸ rfl)
  simp [execStatValue, hdue]

/-- Settles O36: a GFE token is a STAT_VALUE or is shown by `showRequest`, and both refuse what is not due. -/
theorem unissuedTokensAreRefused : Obligations.UnissuedTokensAreRefused := by
  intro i s hdir hreq hstat
  have hshow : showRequest i s = .refused .notEmitted :=
    showRequest_refused i s fun ⟨hdue, hq⟩ => hreq hdue hq
  cases i with
  | statValue a v => exact execStatValue_refused hstat
  | netAccept | netRead | netWrite | dispClear | dispWriteText | dispLoadGlyph | dispMoveCursor | dispWriteChar =>
    exact hshow
  | reset | statRead | netAccepted | netData | netReadErr | netWriteDone | netWriteErr | dispOk | dispErr =>
    exact nomatch hdir

end Sys2Proof.Machine
end

section
/-! TRANSPOSE, COMPRESS and UNTRANSPOSE bit by bit (40_transposer.md R74, R78 to R80). Each builds its bytes with
`byteOfBits` from one bit per place, so one lemma about `byteOfBits` gives the bit each function puts in a place; two glyphs
agree when they agree in the 40 places (r, c). -/

namespace Sys2Proof.Machine

/-- A byte built from one bit per place, no place twice, shows in each place the bit given for it. -/
theorem bit_byteOfBits_place {n : Nat} (f : Fin n → Bool) {place : Fin n → Nat} (hinj : Function.Injective place)
    {i : Fin n} (hi : place i < 8) :
    bit (byteOfBits ((List.finRange n).map (fun j => (f j, place j)))) (place i) = f i := by
  rw [byteOfBits_bit, Bool.eq_iff_iff]
  simp [hi, hinj.eq_iff]

/-- The place of row r in a column byte (30_encoding.md R56). -/
theorem rowPlace_injective : Function.Injective (fun r : Fin 8 => 7 - r.val) := fun a b h => by
  have h : 7 - a.val = 7 - b.val := h
  omega

/-- The place of column c in a row byte (30_encoding.md R57). -/
theorem colPlace_injective : Function.Injective (fun c : Fin 5 => 4 - c.val) := fun a b h => by
  have h : 4 - a.val = 4 - b.val := h
  omega

/-- TRANSPOSE moves bit 7 - r of column c to bit 4 - c of row r (40_transposer.md R74). -/
theorem bit_transpose (x : CmGlyph) (r : Fin 8) (c : Fin 5) :
    bit (transpose x)[r] (4 - c.val) = bit x[c] (7 - r.val) := by
  have hrow : (transpose x)[r] = transposeRow x r.val := by simp [transpose]
  rw [hrow]
  exact bit_byteOfBits_place (fun c : Fin 5 => bit x[c] (7 - r.val)) colPlace_injective (by omega)

/-- COMPRESS puts pixel (r, c) into bit 7 - r of column c (40_transposer.md R78). -/
theorem bit_compress (p : PixelBlock) (r : Fin 8) (c : Fin 5) : bit (compress p)[c] (7 - r.val) = p[r][c] := by
  have hcol : (compress p)[c] = byteOfBits ((List.finRange 8).map (fun r => (p[r][c], 7 - r.val))) := by
    simp [compress]
  rw [hcol]
  exact bit_byteOfBits_place (fun r : Fin 8 => p[r][c]) rowPlace_injective (by omega)

/-- UNTRANSPOSE moves bit 4 - c of row r to bit 7 - r of column c (40_transposer.md R80). -/
theorem bit_untranspose (y : RmGlyph) (r : Fin 8) (c : Fin 5) :
    bit (untranspose y)[c] (7 - r.val) = bit y[r] (4 - c.val) := by
  have hcol : (untranspose y)[c] = byteOfBits ((List.finRange 8).map (fun r => (bit y[r] (4 - c.val), 7 - r.val))) := by
    simp [untranspose]
  rw [hcol]
  exact bit_byteOfBits_place (fun r : Fin 8 => bit y[r] (4 - c.val)) rowPlace_injective (by omega)

/-- Each bit of the bytewise exclusive or of two glyphs is the exclusive or of their bits in that place. -/
theorem bit_zipWith_xor {n : Nat} (x y : Vector Byte n) (i : Fin n) (b : Nat) :
    bit (Vector.zipWith (· ^^^ ·) x y)[i] b = (bit x[i] b ^^ bit y[i] b) := by
  simp [bit]

/-- The exclusive or of glyphs with zero high bits has zero high bits. -/
theorem LowRows.xor {y z : RmGlyph} (hy : LowRows y) (hz : LowRows z) : LowRows (Vector.zipWith (· ^^^ ·) y z) :=
  fun r b hb => by rw [bit_zipWith_xor, hy r b hb, hz r b hb, Bool.xor_false]

/-- A column-major glyph is given by its 40 bits: each of the 8 bits of a column byte is the place of a row. -/
theorem cmGlyph_ext_bit {x x' : CmGlyph}
    (h : ∀ (r : Fin 8) (c : Fin 5), bit x[c] (7 - r.val) = bit x'[c] (7 - r.val)) : x = x' := by
  ext c hc b hb
  have hplace := h ⟨7 - b, by omega⟩ ⟨c, hc⟩
  have hb' : 7 - (7 - b) = b := by omega
  simpa [bit, hb', BitVec.getLsbD_eq_getElem hb] using hplace

/-- A row-major glyph with zero high bits is given by its 40 low bits: the places of the columns are bits 4:0. -/
theorem rmGlyph_ext_bit {y y' : RmGlyph} (hy : LowRows y) (hy' : LowRows y')
    (h : ∀ (r : Fin 8) (c : Fin 5), bit y[r] (4 - c.val) = bit y'[r] (4 - c.val)) : y = y' := by
  ext r hr b hb
  have hbit : bit y[r] b = bit y'[r] b := by
    by_cases hlow : b < 5
    · have hplace := h ⟨r, hr⟩ ⟨4 - b, by omega⟩
      have hb' : 4 - (4 - b) = b := by omega
      simpa [hb'] using hplace
    · exact (hy ⟨r, hr⟩ b (by omega)).trans (hy' ⟨r, hr⟩ b (by omega)).symm
  simpa [bit, BitVec.getLsbD_eq_getElem hb] using hbit

/-- Settles O43: the low bits by `bit_transpose`, the high ones by `lowRows_transpose`. -/
theorem transposeMovesEachBit : Obligations.TransposeMovesEachBit :=
  fun x => ⟨bit_transpose x, lowRows_transpose x⟩

/-- Settles O44: TRANSPOSE reads from COMPRESS(P) the bit that holds the pixel. -/
theorem transposeInvertsCompress : Obligations.TransposeInvertsCompress :=
  fun p => ⟨fun r c => (bit_transpose (compress p) r c).trans (bit_compress p r c), lowRows_transpose (compress p)⟩

/-- Settles O45: in both orders each of the 40 bits goes to its place and back, and the high bits are zero. -/
theorem transposeIsBijective : Obligations.TransposeIsBijective := by
  refine ⟨fun x => ⟨cmGlyph_ext_bit fun r c => ?_, lowRows_transpose x⟩,
    fun y hy => rmGlyph_ext_bit (lowRows_transpose _) hy fun r c => ?_⟩
  · rw [bit_untranspose, bit_transpose]
  · rw [bit_transpose, bit_untranspose]

/-- Settles O46: each low bit of the result is one bit of the argument, and the high bits are zero on both sides. -/
theorem transposeIsLinear : Obligations.TransposeIsLinear := by
  intro x y
  refine rmGlyph_ext_bit (lowRows_transpose _) ((lowRows_transpose x).xor (lowRows_transpose y)) fun r c => ?_
  rw [bit_transpose, bit_zipWith_xor, bit_zipWith_xor, bit_transpose, bit_transpose]

end Sys2Proof.Machine
end

section
/-! The framer (41_framer.md R81 to R88): what each STATE asks for, what issuing a request and a terminal fault leave of the
machine, and what the answers do in LISTEN and ACCUM. -/

namespace Sys2Proof.Machine

section Requests

variable {s : State}

/-- The request of each STATE but RENDER, whose lemma is `State.request_render` (42_sequencer.md R91, R103, R107; 41_framer.md
R81, R84). -/
theorem State.request_listen (hp : s.gfe.phase = .listen) : s.request = some .netAccept := by
  simp [State.request, Machine.request, hp]
theorem State.request_accum (hp : s.gfe.phase = .accum) : s.request = some (.netRead (BitVec.ofNat 8 s.gfe.need)) := by
  simp [State.request, Machine.request, hp]
theorem State.request_ack (hp : s.gfe.phase = .ack) : s.request = some (.netWrite 0x41#8) := by
  simp [State.request, Machine.request, hp, ackChar]
theorem State.request_diag {n : BitVec 2} (hp : s.gfe.phase = .diag) (hd : s.gfe.dstep = n) :
    s.request = diagCmd s.cfg n.toNat := by
  simp [State.request, Machine.request, hp, hd]
theorem State.request_fault (hp : s.gfe.phase = .fault) : s.request = none := by
  simp [State.request, Machine.request, hp]

/-- The first command of a frame loads glyph 0 from TBUF (42_sequencer.md R94, R96). -/
theorem State.request_render_start (hp : s.gfe.phase = .render) (hs : s.gfe.step = 0#5) :
    s.request = some (.dispLoadGlyph 0#8 s.gfe.tbuf) := by
  rw [State.request_render hp, hs]
  rfl

/-- The GFE issues the request it has: it is due, and stands last in the log (00_scope.md R13). -/
theorem State.issue_of_request {q : Instr} (h : s.request = some q) :
    s.issue = { s with due := .request, emitted := s.emitted ++ [q] } := by
  simp [State.issue, h]

/-- Without a request the GFE issues nothing (60_exceptions.md R130). -/
theorem State.issue_of_idle (h : s.request = none) : s.issue = { s with due := .nothing } := by
  simp [State.issue, h]

/-- A fault other than the display error is terminal: FAULT and CAUSE are latched, STATE is FAULT, nothing is issued, and
nothing else changes (60_exceptions.md R130). -/
theorem takeFault_terminal {k : Cause} (f : s.gfe.fault = false) (hk : k ≠ .displayError) :
    takeFault k s = .next
      { s with gfe := { s.gfe with fault := true, cause := k, phase := .fault }, due := .nothing } := by
  obtain ⟨e, -⟩ | ⟨-, e⟩ := raiseFault_cases k s.gfe f
  · exact absurd e hk
  · have hidle : (s.withGfe (raiseFault k s.gfe)).request = none := request_raiseFault k s.gfe s.cfg f hk
    rw [takeFault, State.issue_of_idle hidle, e]
    rfl

/-- A request that is due is shown by its own trace line, and then nothing is due (log 9). -/
theorem showRequest_of_due {q : Instr} (hdue : s.due = .request) (hq : s.request = some q) :
    showRequest q s = .next { s with due := .nothing } :=
  (showRequest_next q s _).2 ⟨hdue, hq, rfl⟩

/-- NET_ACCEPTED in LISTEN enters ACCUM (41_framer.md R82). -/
theorem exec_netAccepted_listen (hp : s.gfe.phase = .listen) (f : s.gfe.fault = false) :
    exec .netAccepted s = .next (s.withGfe (enterAccum s.gfe)).issue := by
  simp [exec, execNetAccepted, hp, f]

/-- NET_DATA in ACCUM goes by the three cases of `receive` (41_framer.md R85 to R87). -/
theorem exec_netData_receive (hp : s.gfe.phase = .accum) (f : s.gfe.fault = false) (d : List Byte) :
    exec (.netData d) s = receive d s := by
  simp [exec, execNetData, hp, f]

/-- A zero-length read is end of stream (41_framer.md R86). -/
theorem receive_nil (s : State) :
    receive [] s = takeFault (if s.gfe.offset = 0#6 then .eofAtBoundary else .eofMidFrame) s := rfl

/-- A read of more than `need` bytes is an overrun (41_framer.md R87). -/
theorem receive_overrun {d : List Byte} (h : s.gfe.need < d.length) : receive d s = takeFault .rxOverrun s := by
  have hne : d.length ≠ 0 := by omega
  simp [receive, hne, h]

/-- NET_READ_ERR in ACCUM is a fault (41_framer.md R88). -/
theorem exec_netReadErr_accum (hp : s.gfe.phase = .accum) (f : s.gfe.fault = false) :
    exec .netReadErr s = takeFault .netReadError s := by
  simp [exec, execNetReadErr, hp, f]

end Requests

/-- Settles O21: each STATE's own lemma, and the three commands of the diagnostic by DSTEP. -/
theorem requestOfEachState : Obligations.RequestOfEachState := fun _ =>
  ⟨State.request_listen, State.request_accum, State.request_render, State.request_ack,
    fun hp hd => State.request_diag hp hd, fun hp hd => State.request_diag hp hd,
    fun hp hd => State.request_diag hp hd, State.request_fault⟩

/-- Settles O33: in each of the three STATEs the token shown is the request that is due. -/
theorem netRequestsAreShown : Obligations.NetRequestsAreShown := fun _ hdue =>
  ⟨fun hp => showRequest_of_due hdue (State.request_listen hp), fun hp => showRequest_of_due hdue (State.request_accum hp),
    fun hp => showRequest_of_due hdue (State.request_ack hp)⟩

/-- Settles O13: ACCUM is entered with all 40 bytes to ask for. -/
theorem acceptedConnectionStartsAccumulation : Obligations.AcceptedConnectionStartsAccumulation := by
  intro s hp f
  have hreq : (s.withGfe (enterAccum s.gfe)).request = some (.netRead 40#8) := State.request_accum rfl
  rw [exec_netAccepted_listen hp f, State.issue_of_request hreq]
  rfl

/-- Settles O15: end of stream takes one of the two terminal faults, by OFFSET. -/
theorem endOfStreamIsTerminal : Obligations.EndOfStreamIsTerminal := by
  intro s hp f _
  rw [exec_netData_receive hp f, receive_nil, takeFault_terminal f (by split <;> decide)]

/-- Settles O16: the overrun is a terminal fault, taken before any byte is written. -/
theorem overrunIsTerminal : Obligations.OverrunIsTerminal := by
  intro s d hp f _ hlong
  rw [exec_netData_receive hp f, receive_overrun hlong, takeFault_terminal f (by decide)]

/-- Settles O17: the read error is a terminal fault. -/
theorem readErrorIsTerminal : Obligations.ReadErrorIsTerminal := by
  intro s hp f
  rw [exec_netReadErr_accum hp f, takeFault_terminal f (by decide)]

/-- A read that leaves bytes missing changes RXBUF and OFFSET alone (41_framer.md R85). -/
theorem acceptBytes_eq_of_lt {d : List Byte} {g : Gfe} (h : (acceptBytes d g).offset.toNat < 40) :
    acceptBytes d g = { g with rxbuf := (acceptBytes d g).rxbuf, offset := (acceptBytes d g).offset } := by
  rw [acceptBytes_offset] at h
  have hne : g.offset + BitVec.ofNat 6 d.length ≠ 40#6 := by bv_omega
  simp [acceptBytes, hne]

/-- The read that completes the record also starts RENDER at STEP 0 with glyph 0 transposed (42_sequencer.md R95 (a)). -/
theorem acceptBytes_eq_of_full {d : List Byte} {g : Gfe} (h : (acceptBytes d g).offset.toNat = 40) :
    acceptBytes d g =
      { g with
        rxbuf := (acceptBytes d g).rxbuf, offset := (acceptBytes d g).offset, phase := .render, step := 0#5,
        tbuf := transpose (glyphAt (acceptBytes d g).rxbuf 0) } := by
  rw [acceptBytes_offset] at h
  have heq : g.offset + BitVec.ofNat 6 d.length = 40#6 := by bv_omega
  simp [acceptBytes, heq]

/-- Glyph 0 is the first five bytes of the record (20_memory.md R37). -/
theorem glyphAt_zero (rxbuf : Vector Byte 40) :
    glyphAt rxbuf 0 = #v[rxbuf[0], rxbuf[1], rxbuf[2], rxbuf[3], rxbuf[4]] := rfl

/-- RXBUF after a read, outside the bytes read (41_framer.md R85). -/
theorem acceptBytes_rxbuf_outside {d : List Byte} {g : Gfe} {k : Nat} (hk : k < 40)
    (h : k < g.offset.toNat ∨ g.offset.toNat + d.length ≤ k) : (acceptBytes d g).rxbuf[k] = g.rxbuf[k] := by
  simp only [acceptBytes_rxbuf]
  exact memWrite_frame _ _ _ _ hk (by omega)

/-- RXBUF after a read, where the bytes read landed (41_framer.md R85). -/
theorem acceptBytes_rxbuf_inside {d : List Byte} {g : Gfe} {k : Nat} (hk : k < 40) {b : Byte}
    (ho : g.offset.toNat ≤ k) (h : d[k - g.offset.toNat]? = some b) : (acceptBytes d g).rxbuf[k] = b := by
  obtain ⟨hlt, -⟩ := List.getElem?_eq_some_iff.1 h
  simp only [acceptBytes_rxbuf]
  rw [memWrite_get _ _ _ _ hk, if_pos (by omega), h, Option.getD_some]

/-- Settles O14: `acceptBytes` says where the bytes go, and OFFSET decides what is asked for next. -/
theorem readBytesFillTheBuffer : Obligations.ReadBytesFillTheBuffer := by
  intro s d hp f h1 hle
  have hneed : d.length ≤ 40 - s.gfe.offset.toNat := by omega
  refine ⟨(acceptBytes d s.gfe).rxbuf, (acceptBytes d s.gfe).offset,
    fun k hk => ⟨acceptBytes_rxbuf_outside hk, fun b => acceptBytes_rxbuf_inside hk⟩,
    acceptBytes_offset_toNat hle, fun hlt => ?_, fun hfull => ?_⟩
  all_goals rw [exec_netData_accum hp f h1 hneed]
  · have hg := acceptBytes_eq_of_lt hlt
    have hphase : (acceptBytes d s.gfe).phase = .accum := by rw [hg, hp]
    rw [State.issue_of_request (State.request_accum hphase)]
    exact congrArg Host.Outcome.next (State.ext_fields hg rfl rfl rfl rfl rfl rfl rfl rfl)
  · have hg := acceptBytes_eq_of_full hfull
    have hphase : (acceptBytes d s.gfe).phase = .render := by rw [hg]
    have hstep : (acceptBytes d s.gfe).step = 0#5 := by rw [hg]
    have htbuf : (acceptBytes d s.gfe).tbuf = transpose (glyphAt (acceptBytes d s.gfe).rxbuf 0) := by rw [hg]
    rw [State.issue_of_request (State.request_render_start hphase hstep)]
    exact congrArg Host.Outcome.next
      (State.ext_fields hg rfl rfl rfl rfl rfl rfl (by simp [htbuf, glyphAt_zero]) rfl)

end Sys2Proof.Machine
end

section
/-! What no token but RESET brings back: LISTEN with its NET_ACCEPT, and after a fault ACCUM with its NET_READ (41_framer.md
R83, R90). -/

namespace Sys2Proof.Machine

/-- A command of a frame goes to the DISPLAY (42_sequencer.md R94). -/
theorem renderCmd_port (c : Configuration) (n : Nat) (y : RmGlyph) : (renderCmd c n y).port = .disp := by
  unfold renderCmd
  split_ifs <;> rfl

/-- A command of the diagnostic goes to the DISPLAY (42_sequencer.md R107). -/
theorem diagCmd_port {c : Configuration} {n : Nat} {q : Instr} (h : diagCmd c n = some q) : q.port = .disp := by
  unfold diagCmd at h
  split_ifs at h <;> obtain rfl := Option.some.inj h <;> rfl

/-- A NET_ACCEPT is outstanding in LISTEN alone (41_framer.md R81, R83). -/
theorem request_ne_netAccept (c : Configuration) {g : Gfe} (h : g.phase ≠ .listen) :
    request c g ≠ some .netAccept := by
  intro hq
  cases hp : g.phase with
  | listen => exact h hp
  | render =>
    have hcmd : renderCmd c g.step.toNat g.tbuf = .netAccept := by simpa [request, hp] using hq
    have hport : Instr.port .netAccept = .disp := hcmd ▸ renderCmd_port c g.step.toNat g.tbuf
    exact nomatch hport
  | diag =>
    have hcmd : diagCmd c g.dstep.toNat = some .netAccept := by simpa [request, hp] using hq
    exact nomatch diagCmd_port hcmd
  | accum | ack | fault => simp [request, hp] at hq

/-- No token but RESET leads to LISTEN (41_framer.md R83). -/
theorem ExecNext.phase_listen {i : Instr} {s t : State} (n : ExecNext i s t) (h : t.gfe.phase = .listen) :
    s.gfe.phase = .listen := by
  cases n.emits with
  | nothing hg => exact hg ▸ h
  | status _ _ hg => exact hg ▸ h
  | next _ _ hne => exact absurd h hne

/-- What a token other than RESET adds to the log is an answer to the SUPERVISOR, or the request of the state it leaves:
not LISTEN, and reached with FAULT = 1 from DIAG alone (00_scope.md R13). -/
theorem ExecNext.emitted_later {i : Instr} {s t : State} (n : ExecNext i s t) :
    ∃ later, t.emitted = s.emitted ++ later ∧ ∀ q ∈ later, q.port = .supervisor ∨
      (request s.cfg t.gfe = some q ∧ t.gfe.phase ≠ .listen ∧ (s.gfe.fault = true → s.gfe.phase = .diag)) := by
  cases n.emits with
  | nothing _ he => exact ⟨[], by simp [he], by simp⟩
  | status a _ _ he => exact ⟨_, he, fun q hq => .inl (List.mem_singleton.1 hq ▸ rfl)⟩
  | next _ hdiag hne he => exact ⟨_, he, fun q hq => .inr ⟨Option.mem_toList.1 hq, hne, hdiag⟩⟩

/-- Settles O54: outside LISTEN NET_ACCEPT is not the request, and no token but RESET leads there. -/
theorem oneConnectionBetweenResets : Obligations.OneConnectionBetweenResets := by
  intro i s t hi e
  have n := exec_next hi e
  obtain ⟨later, he, hlater⟩ := n.emitted_later
  refine ⟨n.phase_listen, later, he, fun hmem => ?_⟩
  obtain hport | ⟨hq, hne, -⟩ := hlater _ hmem
  · exact nomatch hport
  · exact request_ne_netAccept s.cfg hne hq

/-- With FAULT = 1 a token other than RESET leaves S, or moves the diagnostic on or abandons it (60_exceptions.md R132). -/
theorem GfeMove.of_latched {c : Configuration} {i : Instr} {g g' : Gfe} (m : GfeMove c i g g') (f : g.fault = true) :
    g' = g ∨ (g.phase = .diag ∧ (g' = diagNext g ∨ g' = { g with phase := .fault })) := by
  cases m with
  | same => exact .inl rfl
  | diagnosed _ hp => exact .inr ⟨hp, .inl rfl⟩
  | abandoned _ hp => exact .inr ⟨hp, .inr rfl⟩
  | violation f' | accepted f' | endOfStream f' | bytes _ f' | overrun _ f' | readError f' | rendered f'
  | displayError f' | acknowledged f' | ackError f' => simp [f] at f'

/-- The latch holds: no token but RESET clears FAULT (60_exceptions.md R133). -/
theorem GfeMove.fault_of_latched {c : Configuration} {i : Instr} {g g' : Gfe} (m : GfeMove c i g g')
    (f : g.fault = true) : g'.fault = true := by
  obtain rfl | ⟨-, rfl | rfl⟩ := m.of_latched f <;> exact f

/-- A completed diagnostic command stays in DIAG, or ends it in FAULT (42_sequencer.md R110). -/
theorem diagNext_phase_cases {g : Gfe} (h : g.phase = .diag) :
    (diagNext g).phase = .diag ∨ (diagNext g).phase = .fault := by
  unfold diagNext
  dsimp only
  split
  · exact .inr rfl
  · exact .inl h

/-- From DIAG with FAULT = 1 no token but RESET leads to ACCUM (42_sequencer.md R110, R111). -/
theorem GfeMove.phase_ne_accum {c : Configuration} {i : Instr} {g g' : Gfe} (m : GfeMove c i g g')
    (f : g.fault = true) (hp : g.phase = .diag) : g'.phase ≠ .accum := by
  obtain rfl | ⟨-, rfl | rfl⟩ := m.of_latched f
  · simp [hp]
  · rcases diagNext_phase_cases hp with h | h <;> simp [h]
  · simp

/-- With FAULT = 1 a token other than RESET makes the GFE issue no NET_READ (41_framer.md R90 (b)). -/
theorem ExecNext.no_netRead_of_latched {i : Instr} {s t : State} (n : ExecNext i s t) (f : s.gfe.fault = true) :
    ∃ later, t.emitted = s.emitted ++ later ∧ ∀ need, Instr.netRead need ∉ later := by
  obtain ⟨later, he, hlater⟩ := n.emitted_later
  refine ⟨later, he, fun need hmem => ?_⟩
  obtain hport | ⟨hq, -, hdiag⟩ := hlater _ hmem
  · exact nomatch hport
  · exact request_ne_netRead s.cfg (n.move.phase_ne_accum f (hdiag f)) need hq

/-- A run that starts with a token ran it, and goes on from there. -/
theorem runTokens_cons_some {i : Instr} {is : List Instr} {s t : State} (h : runTokens (i :: is) s = some t) :
    ∃ u, exec i s = .next u ∧ runTokens is u = some t := by
  unfold runTokens at h
  split at h
  · next u e => exact ⟨u, e, h⟩
  · exact nomatch h
  · exact nomatch h

/-- Settles O19: by induction over the tokens, each of which keeps the latch and adds no NET_READ. -/
theorem noReadAfterFaultUntilReset : Obligations.NoReadAfterFaultUntilReset := by
  intro is
  induction is with
  | nil =>
    intro s t f _ h
    obtain rfl : s = t := Option.some.inj h
    exact ⟨f, [], by simp, by simp⟩
  | cons i is ih =>
    intro s t f hreset h
    obtain ⟨hi, his⟩ : .reset ≠ i ∧ .reset ∉ is := by simpa using hreset
    obtain ⟨u, e, hrun⟩ := runTokens_cons_some h
    have n := exec_next hi.symm e
    obtain ⟨first, hfirst, hnone⟩ := n.no_netRead_of_latched f
    obtain ⟨ft, rest, hrest, hnone'⟩ := ih u t (n.move.fault_of_latched f) his hrun
    refine ⟨ft, first ++ rest, by rw [hrest, hfirst, List.append_assoc], fun need hmem => ?_⟩
    exact (List.mem_append.1 hmem).elim (hnone need) (hnone' need)

end Sys2Proof.Machine
end

section
/-! The sequencer answer by answer: the 24 commands of a frame, what DISP_OK and DISP_ERR do in RENDER and in DIAG, what ends
ACK, and the trace lines that show the display's requests (42_sequencer.md R94 to R112). -/

namespace Sys2Proof.Machine

/-- The 24 commands of a frame are 8 loads, then 8 pairs of a cursor move and a write (42_sequencer.md R94). -/
theorem frameCommands_eq (c : Configuration) (y : RmGlyph) :
    (List.range 24).map (fun n => renderCmd c n y) =
      (List.range 8).map (fun k => .dispLoadGlyph (BitVec.ofNat 8 k) y) ++
        (List.range 8).flatMap fun k => [.dispMoveCursor (gridCol c k) (gridRow k), .dispWriteChar (BitVec.ofNat 8 k)] := by
  have hsplit : List.range 24 = List.range 8 ++ (List.range 8).flatMap fun k => [8 + 2 * k, 9 + 2 * k] := rfl
  have hloads : (List.range 8).map (fun n => renderCmd c n y) =
      (List.range 8).map fun k => .dispLoadGlyph (BitVec.ofNat 8 k) y :=
    List.map_congr_left fun n hn => renderCmd_load c y (Nat.le_of_lt_succ (List.mem_range.1 hn))
  rw [hsplit, List.map_append, hloads, List.map_flatMap]
  simp only [List.map_cons, List.map_nil, renderCmd_move, renderCmd_write]

/-- The column of a code is BASE_COL, widened to a byte, and k mod 4 (42_sequencer.md R93). -/
theorem gridCol_eq (c : Configuration) (k : Nat) : gridCol c k = c.baseCol.zeroExtend 8 + BitVec.ofNat 8 (k % 4) := by
  have hb := c.baseCol.isLt
  apply BitVec.eq_of_toNat_eq
  rw [gridCol_toNat]
  simp only [BitVec.zeroExtend, BitVec.toNat_add, BitVec.toNat_setWidth, BitVec.toNat_ofNat]
  omega

/-- Settles O22: the loads and the pairs written out, each column as BASE_COL and an offset. -/
theorem frameCommandTable : Obligations.FrameCommandTable := by
  intro c y _
  rw [frameCommands_eq]
  simp only [gridCol_eq]
  rfl

section Answers

variable {s : State}

/-- A DISP_OK has the effect of the outstanding command (44_environment.md R123). -/
theorem State.displayAfterOk_of_request {q : Instr} (h : s.request = some q) : s.displayAfterOk = s.display.apply q := by
  simp [State.displayAfterOk, h]

/-- A display command before the last changes STEP and TBUF alone (42_sequencer.md R99). -/
theorem renderNext_eq_of_lt (c : Configuration) {g : Gfe} (h : g.step.toNat < 23) :
    renderNext c g = { g with step := g.step + 1#5, tbuf := (renderNext c g).tbuf } := by
  obtain ⟨hload, hwrite, -⟩ := renderNext_cases c g
  by_cases h6 : g.step.toNat ≤ 6
  · rw [hload h6]
  · rw [hwrite (by omega) h]

/-- DISP_ERR in RENDER is the display error (42_sequencer.md R101). -/
theorem exec_dispErr_render (hp : s.gfe.phase = .render) (f : s.gfe.fault = false) :
    exec .dispErr s = takeFault .displayError s.displayUnspecified := by
  simp [exec, execDispErr, hp, f]

/-- DISP_ERR in DIAG gives the diagnostic up (42_sequencer.md R111). -/
theorem exec_dispErr_diag (hp : s.gfe.phase = .diag) (f : s.gfe.fault = true) :
    exec .dispErr s = .next (s.displayUnspecified.withGfe { s.gfe with phase := .fault }).issue := by
  simp [exec, execDispErr, hp, f]

/-- DISP_OK in DIAG: the outstanding command has its effect, and the diagnostic moves on (42_sequencer.md R110). -/
theorem exec_dispOk_diag (hp : s.gfe.phase = .diag) (f : s.gfe.fault = true) :
    exec .dispOk s = .next ((s.withDisplay s.displayAfterOk).withGfe (diagNext s.gfe)).issue := by
  simp [exec, execDispOk, hp, f]

/-- The display error starts the diagnostic: FAULT and CAUSE are latched, DISP_CLEAR is issued, nothing else changes
(60_exceptions.md R130, 42_sequencer.md R101, R108). -/
theorem takeFault_displayError (f : s.gfe.fault = false) :
    takeFault .displayError s = .next
      { s with
        gfe := { s.gfe with fault := true, cause := .displayError, phase := .diag, dstep := 0#2 }
        due := .request
        emitted := s.emitted ++ [.dispClear] } := by
  obtain ⟨-, e⟩ | ⟨e, -⟩ := raiseFault_cases .displayError s.gfe f
  · have hreq : (s.withGfe (raiseFault .displayError s.gfe)).request = some .dispClear := by
      rw [e]
      rfl
    rw [takeFault, State.issue_of_request hreq, e]
    rfl
  · exact absurd rfl e

/-- A diagnostic command before the third, answered DISP_OK: DSTEP advances and the next command is issued (42_sequencer.md
R110). -/
theorem exec_dispOk_diag_advances {n : BitVec 2} {q q' : Instr} (hp : s.gfe.phase = .diag) (f : s.gfe.fault = true)
    (hd : s.gfe.dstep = n) (hn : n + 1#2 ≠ 3#2) (hq : diagCmd s.cfg n.toNat = some q)
    (hq' : diagCmd s.cfg (n + 1#2).toNat = some q') :
    exec .dispOk s = .next
      { s with
        gfe := { s.gfe with dstep := n + 1#2 }
        display := s.display.apply q
        due := .request
        emitted := s.emitted ++ [q'] } := by
  have hnext : diagNext s.gfe = { s.gfe with dstep := n + 1#2 } := by simp [diagNext, hd, hn]
  have hreq : ((s.withDisplay s.displayAfterOk).withGfe (diagNext s.gfe)).request = some q' := by
    rw [hnext]
    exact Eq.trans (State.request_diag hp rfl) hq'
  rw [exec_dispOk_diag hp f, State.issue_of_request hreq, hnext,
    State.displayAfterOk_of_request ((State.request_diag hp hd).trans hq)]
  rfl

/-- The third diagnostic command, answered DISP_OK, ends in FAULT with nothing to issue (42_sequencer.md R110). -/
theorem exec_dispOk_diag_ends (hp : s.gfe.phase = .diag) (f : s.gfe.fault = true) (hd : s.gfe.dstep = 2#2) :
    exec .dispOk s = .next
      { s with
        gfe := { s.gfe with dstep := 3#2, phase := .fault }
        display := s.display.apply (.dispWriteText (s.cfg.diagText.take 16))
        due := .nothing } := by
  have hnext : diagNext s.gfe = { s.gfe with dstep := 3#2, phase := .fault } := by simp [diagNext, hd]
  have hidle : ((s.withDisplay s.displayAfterOk).withGfe (diagNext s.gfe)).request = none := by
    rw [hnext]
    rfl
  have htext : s.request = some (.dispWriteText (s.cfg.diagText.take 16)) := State.request_diag hp hd
  rw [exec_dispOk_diag hp f, State.issue_of_idle hidle, hnext, State.displayAfterOk_of_request htext]
  rfl

/-- NET_WRITE_DONE in ACK enters ACCUM, the acknowledgment in the PEER-bound stream (42_sequencer.md R104). -/
theorem exec_netWriteDone_ack (hp : s.gfe.phase = .ack) (f : s.gfe.fault = false) :
    exec .netWriteDone s = .next
      ((s.withPeer { s.peer with acks := s.peer.acks ++ [ackChar] }).withGfe (enterAccum s.gfe)).issue := by
  simp [exec, execNetWriteDone, hp, f]

/-- NET_WRITE_ERR in ACK is a fault (42_sequencer.md R105). -/
theorem exec_netWriteErr_ack (hp : s.gfe.phase = .ack) (f : s.gfe.fault = false) :
    exec .netWriteErr s = takeFault .ackWriteError s := by
  simp [exec, execNetWriteErr, hp, f]

end Answers

/-- Settles O23: TBUF is what `renderNext` leaves there, and the next command carries it. -/
theorem displayOkAdvancesTheFrame : Obligations.DisplayOkAdvancesTheFrame := by
  intro s hp f hs
  have hlt : s.gfe.step.toNat < 23 := hs
  obtain ⟨hload, hwrite, -⟩ := renderNext_cases s.cfg s.gfe
  obtain ⟨hphase, hstep⟩ := renderNext_advances s.cfg hlt
  refine ⟨(renderNext s.cfg s.gfe).tbuf, fun h6 => by rw [hload h6], fun h6 => by rw [hwrite h6 hlt], ?_⟩
  have hreq : ((s.withDisplay s.displayAfterOk).withGfe (renderNext s.cfg s.gfe)).request =
      some (renderCmd s.cfg (s.gfe.step.toNat + 1) (renderNext s.cfg s.gfe).tbuf) := by
    rw [State.request_render (hphase.trans hp), ← hstep]
    rfl
  rw [exec_dispOk_render hp f, State.issue_of_request hreq, State.displayAfterOk_render hp,
    ← renderNext_eq_of_lt s.cfg hlt]
  rfl

/-- Settles O25: the DISPLAY is the next draw, and the display error is taken. -/
theorem displayErrorStartsTheDiagnostic : Obligations.DisplayErrorStartsTheDiagnostic := by
  intro s hp f
  exact ⟨Config.freeDisplay s.free, s.free + 1,
    (exec_dispErr_render hp f).trans (takeFault_displayError (s := s.displayUnspecified) f)⟩

/-- Settles O26: two commands that advance DSTEP, and the one that ends the diagnostic. -/
theorem displayOkAdvancesTheDiagnostic : Obligations.DisplayOkAdvancesTheDiagnostic := fun _ hp f =>
  ⟨fun hd => exec_dispOk_diag_advances hp f hd (by decide) rfl rfl,
    fun hd => exec_dispOk_diag_advances hp f hd (by decide) rfl rfl, exec_dispOk_diag_ends hp f⟩

/-- Settles O27: FAULT has nothing to issue, and the DISPLAY is the next draw. -/
theorem displayErrorAbandonsTheDiagnostic : Obligations.DisplayErrorAbandonsTheDiagnostic := by
  intro s hp f
  have hidle : (s.displayUnspecified.withGfe { s.gfe with phase := .fault }).request = none := State.request_fault rfl
  exact ⟨Config.freeDisplay s.free, s.free + 1, by rw [exec_dispErr_diag hp f, State.issue_of_idle hidle]; rfl⟩

/-- Settles O28: ACCUM is entered with all 40 bytes to ask for. -/
theorem acknowledgmentStartsTheNextRecord : Obligations.AcknowledgmentStartsTheNextRecord := by
  intro s hp f
  have hreq : ((s.withPeer { s.peer with acks := s.peer.acks ++ [ackChar] }).withGfe (enterAccum s.gfe)).request =
      some (.netRead 40#8) := State.request_accum rfl
  rw [exec_netWriteDone_ack hp f, State.issue_of_request hreq]
  rfl

/-- Settles O29: the write error is a terminal fault. -/
theorem acknowledgmentErrorIsTerminal : Obligations.AcknowledgmentErrorIsTerminal := by
  intro s hp f
  rw [exec_netWriteErr_ack hp f, takeFault_terminal f (by decide)]

/-- Settles O34: command STEP is a load, the move of a code or the write of a code, and it is the request that is due. -/
theorem frameRequestsAreShown : Obligations.FrameRequestsAreShown := by
  intro s hdue hp
  have hreq := State.request_render hp
  refine ⟨fun h7 => showRequest_of_due hdue ?_, fun k hk => showRequest_of_due hdue ?_,
    fun k hk => showRequest_of_due hdue ?_⟩
  · rw [hreq, renderCmd_load s.cfg s.gfe.tbuf h7]
  · rw [hreq, hk, renderCmd_move]
    rfl
  · rw [hreq, hk, renderCmd_write]

/-- Settles O35: at each DSTEP the token shown is the request that is due. -/
theorem diagnosticRequestsAreShown : Obligations.DiagnosticRequestsAreShown := fun _ hdue hp =>
  ⟨fun hd => showRequest_of_due hdue (State.request_diag hp hd),
    fun hd => showRequest_of_due hdue (State.request_diag hp hd),
    fun hd => showRequest_of_due hdue (State.request_diag hp hd)⟩

end Sys2Proof.Machine
end

section
/-! What the DISPLAY holds of the frame being rendered or acknowledged, kept by every token (42_sequencer.md R93, R102;
44_environment.md R123). -/

namespace Sys2Proof.Machine

/-- With a frame in hand, in RENDER or ACK, FAULT is 0 (10_state.md R29 I3, I4). -/
theorem Gfe.Inv.unfaulted_of_frame {c : Configuration} {g : Gfe} (h : g.Inv c)
    (hp : g.phase = .render ∨ g.phase = .ack) : g.fault = false := by
  rcases hp with hp | hp
  · exact (h.rendering hp).1
  · obtain ⟨-, -, -, -, f, -⟩ := h.i4 hp
    exact f

/-- A non-empty read stays in ACCUM, or starts RENDER at STEP 0 (41_framer.md R85). -/
theorem acceptBytes_phase_cases (d : List Byte) {g : Gfe} (hp : g.phase = .accum) :
    (acceptBytes d g).phase = .accum ∨ ((acceptBytes d g).phase = .render ∧ (acceptBytes d g).step = 0#5) := by
  unfold acceptBytes
  dsimp only
  split
  · exact .inr ⟨rfl, rfl⟩
  · exact .inl hp

/-- A latched fault has no frame in hand (60_exceptions.md R130). -/
theorem raiseFault_no_frame (k : Cause) {g : Gfe} (f : g.fault = false) :
    ¬((raiseFault k g).phase = .render ∨ (raiseFault k g).phase = .ack) := by
  rcases raiseFault_phase k g f with h | h <;> simp [h]

/-- A token other than RESET that leaves the machine in RENDER or ACK left S alone, began a frame, or was the DISP_OK of a
display command of the frame (42_sequencer.md R92). -/
theorem GfeMove.frame_cases {c : Configuration} {i : Instr} {g g' : Gfe} (m : GfeMove c i g g')
    (hp : g'.phase = .render ∨ g'.phase = .ack) :
    (g' = g ∧ (g.fault = true ∨ isResponse i = false)) ∨ (g'.phase = .render ∧ g'.step = 0#5) ∨
      (i = .dispOk ∧ g.phase = .render ∧ g.fault = false) := by
  cases m with
  | same hi => exact .inl ⟨rfl, hi⟩
  | bytes d _ ha =>
    obtain hstay | hstart := acceptBytes_phase_cases d ha
    · simp [hstay] at hp
    · exact .inr (.inl hstart)
  | rendered f hr hi => exact .inr (.inr ⟨hi, hr, f⟩)
  | accepted | acknowledged | abandoned => simp at hp
  | diagnosed _ hd => rcases diagNext_phase_cases hd with h | h <;> simp [h] at hp
  | violation f | endOfStream f | overrun _ f | readError f | displayError f | ackError f =>
    exact absurd hp (raiseFault_no_frame _ f)

/-- A token that leaves S in RENDER or ACK as it was leaves the DISPLAY too: it was no answer to a display command. -/
theorem ExecNext.display_of_same {i : Instr} {s t : State} (n : ExecNext i s t)
    (hi : s.gfe.fault = true ∨ isResponse i = false) (f : s.gfe.fault = false) (ft : t.gfe.fault = false) :
    t.display = s.display := by
  have hno : isResponse i = false := hi.resolve_left (by simp [f])
  cases n.display with
  | same h => exact h
  | completed hok => exact nomatch hok ▸ hno
  | unspecified h => simp [ft] at h

/-- A completed frame has left RENDER (42_sequencer.md R100). -/
theorem renderDone_phase_ne_render (c : Configuration) (g : Gfe) : (renderDone c g).phase ≠ .render := by
  cases hm : c.mode with
  | ackPaced => simp [renderDone_ackPaced hm]
  | delayPaced => simp [renderDone_delayPaced hm]

/-- The DISP_OK of command STEP takes the DISPLAY one command further (42_sequencer.md R99; 44_environment.md R123). -/
theorem State.Inv.displayAfterOk {s : State} (h : s.Inv) (hp : s.gfe.phase = .render)
    (hd : FrameSoFar s.cfg s.gfe.rxbuf s.gfe.step.toNat s.display) :
    FrameSoFar s.cfg s.gfe.rxbuf (s.gfe.step.toNat + 1) s.displayAfterOk := by
  have heffect : s.displayAfterOk = s.display.apply (frameCmd s.cfg s.gfe.rxbuf s.gfe.step.toNat) := by
    simp [State.displayAfterOk, h.request_render hp]
  rw [heffect]
  exact hd.apply h.legal h.gfe.stepRange

/-- A completed display command keeps the display invariant: before the last one the frame is shown one command further,
after it the frame is shown whole (42_sequencer.md R99, R100). -/
theorem State.Inv.displayInv_dispOk {s : State} (h : s.Inv) (hd : s.DisplayInv) (hp : s.gfe.phase = .render) :
    ((s.withDisplay s.displayAfterOk).withGfe (renderNext s.cfg s.gfe)).issue.DisplayInv := by
  have hnext := h.displayAfterOk hp (hd.rendering hp)
  by_cases hlt : s.gfe.step.toNat < 23
  · obtain ⟨hphase, hstep⟩ := renderNext_advances s.cfg hlt
    exact ⟨fun _ => by simpa [hstep] using hnext, fun hack => by simp [hphase, hp] at hack⟩
  · have hle : s.gfe.step.toNat ≤ 23 := h.gfe.stepRange
    have hlast : s.gfe.step.toNat + 1 = 24 := by omega
    obtain ⟨-, -, hdone⟩ := renderNext_cases s.cfg s.gfe
    rw [hdone (by omega)]
    rw [hlast] at hnext
    exact ⟨fun hr => absurd hr (renderDone_phase_ne_render _ _), fun _ => by simpa using hnext.shown⟩

/-- A state at the beginning of a frame meets the display invariant: nothing is loaded or written yet. -/
theorem State.displayInv_of_start {t : State} (hp : t.gfe.phase = .render) (hs : t.gfe.step = 0#5) : t.DisplayInv :=
  ⟨fun _ => by rw [hs]; exact frameSoFar_zero _ _ _, fun hack => by simp [hp] at hack⟩

/-- A state in neither RENDER nor ACK meets the display invariant, which asks nothing there. -/
theorem State.displayInv_of_no_frame {t : State} (hp : ¬(t.gfe.phase = .render ∨ t.gfe.phase = .ack)) : t.DisplayInv :=
  ⟨fun h => absurd (.inl h) hp, fun h => absurd (.inr h) hp⟩

/-- The display invariant speaks of S, the configuration and the DISPLAY alone. -/
theorem State.DisplayInv.congr {s t : State} (h : s.DisplayInv) (gfe : t.gfe = s.gfe) (cfg : t.cfg = s.cfg)
    (display : t.display = s.display) : t.DisplayInv :=
  ⟨by rw [gfe, cfg, display]; exact h.rendering, by rw [gfe, cfg, display]; exact h.acknowledging⟩

/-- Every token keeps the display invariant: RESET and the faults leave no frame in hand, a read may begin one, a DISP_OK
takes it further, and every other token leaves it. -/
theorem exec_displayInv {i : Instr} {s t : State} (h : s.Inv) (hd : s.DisplayInv) (e : exec i s = .next t) :
    t.DisplayInv := by
  by_cases hp : t.gfe.phase = .render ∨ t.gfe.phase = .ack
  · by_cases hi : i = .reset
    · subst hi
      obtain ⟨-, rfl⟩ := (execReset_next s t).1 e
      simp [Gfe.afterReset] at hp
    · have n := exec_next hi e
      obtain ⟨hg, hsame⟩ | ⟨hr, hs⟩ | ⟨rfl, hr, f⟩ := n.move.frame_cases hp
      · have ft := (exec_inv h e).gfe.unfaulted_of_frame hp
        exact hd.congr hg n.cfg (n.display_of_same hsame (hg ▸ ft) ft)
      · exact State.displayInv_of_start hr hs
      · obtain rfl := Host.Outcome.next.inj ((exec_dispOk_render hr f).symm.trans e)
        exact h.displayInv_dispOk hd hr
  · exact State.displayInv_of_no_frame hp

/-- Settles O48: a step runs one token, and the trace it moves is no part of either invariant. -/
theorem stepKeepsTheDisplayInvariant : Obligations.StepKeepsTheDisplayInvariant := by
  intro s t h hd e
  obtain ⟨i, rest, -, e⟩ := step_next s t e
  have h' : (s.withTrace rest).Inv := ⟨h.gfe, h.legal⟩
  exact exec_displayInv h' (hd.congr rfl rfl rfl) e

end Sys2Proof.Machine
end

section
/-! What MODE decides: the requests, the latch and the display do not look at it, so every token but four runs the same under
either MODE (42_sequencer.md R100, R106); what those four do with it (10_state.md R32, 70_reset_and_hazards.md R144). -/

namespace Sys2Proof.Machine

/-- The meaning f runs at s under the MODE m as it does under the MODE of s, with that MODE in the next state. -/
def ModeFree (f : State → Result) (s : State) (m : Pacing) : Prop :=
  f (s.withMode m) = mapNext (fun t => t.withMode m) (f s)

section Updates

variable (s : State) (m : Pacing)

@[simp] theorem State.withMode_gfe : (s.withMode m).gfe = s.gfe := rfl
@[simp] theorem State.withMode_due : (s.withMode m).due = s.due := rfl

/-- The outstanding request does not look at MODE (42_sequencer.md R91, R94, R107). -/
@[simp] theorem State.withMode_request : (s.withMode m).request = s.request := rfl
@[simp] theorem State.withMode_displayCommandOutstanding :
    (s.withMode m).displayCommandOutstanding = s.displayCommandOutstanding := rfl

/-- Abandoning a command does not look at MODE (70_reset_and_hazards.md R145). -/
theorem State.withMode_abandonCommand : (s.withMode m).abandonCommand = s.abandonCommand.withMode m := by
  unfold State.abandonCommand
  rw [State.withMode_displayCommandOutstanding]
  split <;> rfl

/-- Taking a fault, a violation and an ignored response do not look at MODE (60_exceptions.md R130 to R132). -/
theorem takeFault_modeFree (k : Cause) : ModeFree (takeFault k) s m := rfl
theorem violation_modeFree : ModeFree violation s m := by
  unfold ModeFree violation
  rw [State.withMode_abandonCommand]
  rfl
theorem ignored_modeFree : ModeFree ignored s m := rfl

/-- Showing a request does not look at MODE (log 9). -/
theorem showRequest_modeFree (q : Instr) : ModeFree (showRequest q) s m := by
  unfold ModeFree showRequest
  rw [State.withMode_due, State.withMode_request]
  split <;> rfl

/-- A display command before the last one of a frame does not look at the configuration (42_sequencer.md R99). -/
theorem renderNext_congr_of_lt (c c' : Configuration) {g : Gfe} (h : g.step.toNat < 23) :
    renderNext c g = renderNext c' g := by
  unfold renderNext
  simp only [h, if_true]

/-- No status address but CONFIG shows MODE (10_state.md R30 to R33). -/
theorem statValue_withMode {a : Byte} (h : a ≠ 0x02#8) (g : Gfe) :
    statValue a (s.withMode m).cfg g = statValue a s.cfg g := by
  simp only [statValue, h, if_false]

/-- The status port does not look at MODE, but at the address of CONFIG (43_status_port.md R113, R114). -/
theorem execStatRead_modeFree {a : Byte} (h : a ≠ 0x02#8) : ModeFree (execStatRead a) s m := by
  unfold ModeFree execStatRead
  rw [State.withMode_gfe, statValue_withMode s m h]
  rfl
theorem execStatValue_modeFree {a : Byte} (h : a ≠ 0x02#8) (v : Word) : ModeFree (execStatValue a v) s m := by
  unfold ModeFree execStatValue
  rw [State.withMode_gfe, State.withMode_due, statValue_withMode s m h]
  split <;> rfl

/-- The framer's three cases of a read do not look at MODE (41_framer.md R85 to R87). -/
theorem receive_modeFree (d : List Byte) : ModeFree (receive d) s m := by
  unfold ModeFree receive
  rw [State.withMode_gfe]
  split
  · rfl
  · split <;> rfl

end Updates

section Responses

variable {i : Instr} {s : State}

/-- A response that is not accepted in the present STATE, with FAULT = 0, is a violation (60_exceptions.md R131). -/
theorem exec_of_unaccepted (hi : isResponse i = true) (f : s.gfe.fault = false)
    (ha : acceptedIn s.gfe.phase i = false) : exec i s = violation s := by
  cases i with
  | netAccepted | netData | netReadErr | netWriteDone | netWriteErr | dispOk | dispErr =>
    cases hp : s.gfe.phase <;>
      simp [exec, execNetAccepted, execNetData, execNetReadErr, execNetWriteDone, execNetWriteErr, execDispOk, execDispErr,
        f, hp, acceptedIn, Instr.tag] at ha ⊢
  | reset | statRead | statValue | netAccept | netRead | netWrite | dispClear | dispWriteText | dispLoadGlyph
  | dispMoveCursor | dispWriteChar => simp [isResponse, Instr.direction, Instr.port] at hi

/-- A response with FAULT = 1 is ignored, unless it answers a command of the diagnostic (60_exceptions.md R132). -/
theorem exec_of_latched (hi : isResponse i = true) (f : s.gfe.fault = true)
    (hd : ¬(s.gfe.phase = .diag ∧ (i = .dispOk ∨ i = .dispErr))) : exec i s = ignored s := by
  cases i with
  | netAccepted | netData | netReadErr | netWriteDone | netWriteErr =>
    simp [exec, execNetAccepted, execNetData, execNetReadErr, execNetWriteDone, execNetWriteErr, f]
  | dispOk | dispErr => cases hp : s.gfe.phase <;> simp [exec, execDispOk, execDispErr, f, hp] at hd ⊢
  | reset | statRead | statValue | netAccept | netRead | netWrite | dispClear | dispWriteText | dispLoadGlyph
  | dispMoveCursor | dispWriteChar => simp [isResponse, Instr.direction, Instr.port] at hi

/-- The only token with the tag of NET_DATA is NET_DATA (30_encoding.md R62). -/
theorem eq_netData_of_tag (h : i.tag = 0x19#8) : ∃ d, i = .netData d := by
  cases i with
  | netData d => exact ⟨d, rfl⟩
  | _ => simp [Instr.tag] at h

/-- The responses accepted with FAULT = 0, each in its STATE (60_exceptions.md R131). -/
theorem acceptedIn_cases {p : Phase} (ha : acceptedIn p i = true) :
    (p = .listen ∧ i = .netAccepted) ∨ (p = .accum ∧ (i = .netReadErr ∨ ∃ d, i = .netData d)) ∨
      (p = .render ∧ (i = .dispOk ∨ i = .dispErr)) ∨ (p = .ack ∧ (i = .netWriteDone ∨ i = .netWriteErr)) := by
  cases p with
  | listen => exact .inl ⟨rfl, by simpa [acceptedIn] using ha⟩
  | accum =>
    have hi : i = .netReadErr ∨ i.tag = 0x19#8 := by simpa [acceptedIn] using ha
    exact .inr (.inl ⟨rfl, hi.imp_right eq_netData_of_tag⟩)
  | render => exact .inr (.inr (.inl ⟨rfl, by simpa [acceptedIn] using ha⟩))
  | ack => exact .inr (.inr (.inr ⟨rfl, by simpa [acceptedIn] using ha⟩))
  | diag | fault => simp [acceptedIn] at ha

/-- An accepted response does not look at MODE, but the DISP_OK that completes a frame (42_sequencer.md R99 to R106). -/
theorem exec_accepted_modeFree (m : Pacing) (f : s.gfe.fault = false) (ha : acceptedIn s.gfe.phase i = true)
    (hdone : i = .dispOk → s.gfe.phase = .render → s.gfe.step.toNat < 23) : ModeFree (exec i) s m := by
  unfold ModeFree
  obtain ⟨hp, rfl⟩ | ⟨hp, rfl | ⟨d, rfl⟩⟩ | ⟨hp, rfl | rfl⟩ | ⟨hp, rfl | rfl⟩ := acceptedIn_cases ha
  · rw [exec_netAccepted_listen hp f, exec_netAccepted_listen (s := s.withMode m) hp f]
    rfl
  · rw [exec_netReadErr_accum hp f, exec_netReadErr_accum (s := s.withMode m) hp f]
    exact takeFault_modeFree s m _
  · rw [exec_netData_receive hp f, exec_netData_receive (s := s.withMode m) hp f]
    exact receive_modeFree s m d
  · rw [exec_dispOk_render hp f, exec_dispOk_render (s := s.withMode m) hp f, State.withMode_gfe,
      renderNext_congr_of_lt (s.withMode m).cfg s.cfg (hdone rfl hp)]
    rfl
  · rw [exec_dispErr_render hp f, exec_dispErr_render (s := s.withMode m) hp f]
    rfl
  · rw [exec_netWriteDone_ack hp f, exec_netWriteDone_ack (s := s.withMode m) hp f]
    rfl
  · rw [exec_netWriteErr_ack hp f, exec_netWriteErr_ack (s := s.withMode m) hp f]
    exact takeFault_modeFree s m _

/-- A response with FAULT = 1 does not look at MODE (60_exceptions.md R132, 42_sequencer.md R110, R111). -/
theorem exec_latched_modeFree (m : Pacing) (hi : isResponse i = true) (f : s.gfe.fault = true) :
    ModeFree (exec i) s m := by
  unfold ModeFree
  by_cases hd : s.gfe.phase = .diag ∧ (i = .dispOk ∨ i = .dispErr)
  · obtain ⟨hp, rfl | rfl⟩ := hd
    · rw [exec_dispOk_diag hp f, exec_dispOk_diag (s := s.withMode m) hp f]
      rfl
    · rw [exec_dispErr_diag hp f, exec_dispErr_diag (s := s.withMode m) hp f]
      rfl
  · rw [exec_of_latched hi f hd, exec_of_latched (s := s.withMode m) hi f hd]
    exact ignored_modeFree s m

/-- A response does not look at MODE, but the DISP_OK that completes a frame (42_sequencer.md R106). -/
theorem exec_response_modeFree (m : Pacing) (hi : isResponse i = true)
    (hdone : i = .dispOk → s.gfe.phase = .render → s.gfe.fault = false → s.gfe.step.toNat < 23) :
    ModeFree (exec i) s m := by
  cases f : s.gfe.fault with
  | true => exact exec_latched_modeFree m hi f
  | false =>
    cases ha : acceptedIn s.gfe.phase i with
    | true => exact exec_accepted_modeFree m f ha fun hok hp => hdone hok hp f
    | false =>
      unfold ModeFree
      rw [exec_of_unaccepted hi f ha, exec_of_unaccepted (s := s.withMode m) hi f ha]
      exact violation_modeFree s m

end Responses

/-- Settles O58: a status token at another address than CONFIG, a shown request, and a response that completes no frame are
each free of MODE. -/
theorem modeDecidesOnlyTheAcknowledgment : Obligations.ModeDecidesOnlyTheAcknowledgment := by
  intro i s m hreset hread hvalue hdone
  cases i with
  | reset => exact absurd rfl hreset
  | statRead a => exact execStatRead_modeFree s m fun ha => hread (ha ▸ rfl)
  | statValue a v => exact execStatValue_modeFree s m (fun ha => hvalue v (ha ▸ rfl)) v
  | netAccept | netRead | netWrite | dispClear | dispWriteText | dispLoadGlyph | dispMoveCursor | dispWriteChar =>
    exact showRequest_modeFree s m _
  | netAccepted | netData | netReadErr | netWriteDone | netWriteErr | dispOk | dispErr =>
    refine exec_response_modeFree m rfl fun hok hp f => ?_
    have hlt : ¬23#5 ≤ s.gfe.step := fun hs => hdone ⟨hok, hp, f, hs⟩
    bv_omega

/-- The bits of CONFIG above bit 0 are BASE_COL's: MODE is not among them (10_state.md R32). -/
theorem configWord_getLsbD_succ (c : Configuration) (k : Nat) :
    (configWord c).getLsbD (k + 1) = (2 ^ 3 * c.baseCol.toNat).testBit k := by
  have hm := (decide (c.mode = .ackPaced)).toNat_le
  rw [BitVec.getLsbD, Nat.testBit_succ, configWord_toNat]
  congr 1
  omega

/-- The CONFIG answer that is due is shown under either MODE, with the value that MODE gives (43_status_port.md R114). -/
theorem execStatValue_config_withMode (s : State) (m : Pacing) :
    execStatValue 0x02#8 (statValue 0x02#8 (s.withMode m).cfg s.gfe) (s.withMode m) =
      mapNext (fun t => t.withMode m) (execStatValue 0x02#8 (statValue 0x02#8 s.cfg s.gfe) s) := by
  unfold execStatValue
  simp only [State.withMode_gfe, State.withMode_due, and_true]
  split <;> rfl

/-- RESET samples MODE anew and does not look at the one sampled before (70_reset_and_hazards.md R144). -/
theorem execReset_withMode (s : State) (m : Pacing) : execReset (s.withMode m) = execReset s := by
  have hrestarted : (s.withMode m).restarted = s.restarted := by
    unfold State.restarted
    rw [State.withMode_abandonCommand]
    rfl
  unfold execReset
  rw [hrestarted]
  rfl

/-- The DISP_OK that completes a frame (42_sequencer.md R100). -/
theorem exec_dispOk_done {s : State} (hp : s.gfe.phase = .render) (f : s.gfe.fault = false)
    (hs : 23 ≤ s.gfe.step.toNat) :
    exec .dispOk s = .next ((s.withDisplay s.displayAfterOk).withGfe (renderDone s.cfg s.gfe)).issue := by
  obtain ⟨-, -, hdone⟩ := renderNext_cases s.cfg s.gfe
  rw [exec_dispOk_render hp f, hdone hs]

/-- Settles O60: `renderDone` under the two MODEs, the bits of CONFIG, and RESET's sampling. -/
theorem modeActsAtCompletionAndShowsInConfig : Obligations.ModeActsAtCompletionAndShowsInConfig := by
  intro s
  refine ⟨fun hp f hs => ?_, fun m => ⟨rfl, fun k hk => ?_, ?_, execStatValue_config_withMode s m,
    execReset_withMode s m⟩⟩
  · refine ⟨_, exec_dispOk_done (s := s.withMode .ackPaced) hp f hs, ?_, ?_, ?_⟩
    · rfl
    · rfl
    · rw [exec_dispOk_done (s := s.withMode .delayPaced) hp f hs]
      rfl
  · obtain ⟨j, rfl⟩ : ∃ j, k = j + 1 := ⟨k - 1, by omega⟩
    simp only [statValue_config, configWord_getLsbD_succ]
    rfl
  · obtain ⟨-, hmode, -⟩ := framesConfigAndReservedAddresses (s.withMode m).cfg s.gfe
    exact hmode

end Sys2Proof.Machine
end

section
/-! The diagnostic as a whole: three DISP_OK, and the line that the DISPLAY then shows (42_sequencer.md R107 to R110;
44_environment.md R123). -/

namespace Sys2Proof.Machine

/-- A cleared display is blank in every cell (44_environment.md R123). -/
theorem clear_cellAt (d : Display) {r c : Nat} (hr : r < 2) (hc : c < 16) : d.clear.cellAt r c = .blank := by
  simp only [Display.clear, cellAt_cursor, cellAt_mapCells d _ r c hr hc]

/-- Text written at the cursor shows from there on in its row, and nowhere else (44_environment.md R123). -/
theorem writeText_cellAt {d : Display} {col row : Byte} (hcur : d.cursor = .pos col row) (t : List Byte) {r c : Nat}
    (hr : r < 2) (hc : c < 16) :
    (d.writeText t).cellAt r c =
      if r = row.toNat ∧ col.toNat ≤ c ∧ c < col.toNat + t.length then .text (t[c - col.toNat]?.getD 0#8)
      else d.cellAt r c := by
  simp only [Display.writeText, hcur, cellAt_cursor, cellAt_mapCells d _ r c hr hc]

/-- Text leaves the glyph slots, and the cursor unspecified (44_environment.md R123). -/
@[simp] theorem writeText_slot (d : Display) (t : List Byte) : (d.writeText t).slot = d.slot := by
  unfold Display.writeText
  split <;> rfl
@[simp] theorem writeText_cursor (d : Display) (t : List Byte) : (d.writeText t).cursor = .unspec := by
  unfold Display.writeText
  split <;> rfl

/-- The DISPLAY after the three commands of the diagnostic with the text t (42_sequencer.md R107). -/
def diagnosed (d : Display) (t : List Byte) : Display :=
  ((d.apply .dispClear).apply (.dispMoveCursor 0#8 0#8)).apply (.dispWriteText t)

/-- The diagnostic shows its text on row 0 and blanks everywhere else. -/
theorem diagnosed_cellAt (d : Display) (t : List Byte) {r c : Nat} (hr : r < 2) (hc : c < 16) :
    (diagnosed d t).cellAt r c = if r = 0 ∧ c < t.length then .text (t[c]?.getD 0#8) else .blank := by
  have hblank : (d.clear.moveCursor 0#8 0#8).cellAt r c = .blank := clear_cellAt d hr hc
  have htext := writeText_cellAt (d := d.clear.moveCursor 0#8 0#8) rfl t hr hc
  rw [hblank] at htext
  simpa [diagnosed, Display.apply] using htext

/-- Three DISP_OK run the diagnostic to its end. -/
theorem runTokens_diagnostic {s : State} (hp : s.gfe.phase = .diag) (f : s.gfe.fault = true)
    (hd : s.gfe.dstep = 0#2) :
    ∃ t, runTokens [.dispOk, .dispOk, .dispOk] s = some t ∧
      t.gfe = { s.gfe with phase := .fault, dstep := 3#2 } ∧
      t.display = diagnosed s.display (s.cfg.diagText.take 16) := by
  obtain ⟨u, eu, hu, hucfg, hudisplay⟩ : ∃ u, exec .dispOk s = .next u ∧ u.gfe = { s.gfe with dstep := 1#2 } ∧
      u.cfg = s.cfg ∧ u.display = s.display.apply .dispClear :=
    ⟨_, exec_dispOk_diag_advances hp f hd (by decide) rfl rfl, rfl, rfl, rfl⟩
  obtain ⟨v, ev, hv, hvcfg, hvdisplay⟩ : ∃ v, exec .dispOk u = .next v ∧ v.gfe = { u.gfe with dstep := 2#2 } ∧
      v.cfg = u.cfg ∧ v.display = u.display.apply (.dispMoveCursor 0#8 0#8) :=
    ⟨_, exec_dispOk_diag_advances (n := 1#2) (by rw [hu, hp]) (by rw [hu, f]) (by rw [hu]) (by decide) rfl rfl, rfl, rfl, rfl⟩
  obtain ⟨t, et, ht, htdisplay⟩ : ∃ t, exec .dispOk v = .next t ∧
      t.gfe = { v.gfe with phase := .fault, dstep := 3#2 } ∧
      t.display = v.display.apply (.dispWriteText (v.cfg.diagText.take 16)) :=
    ⟨_, exec_dispOk_diag_ends (by rw [hv, hu, hp]) (by rw [hv, hu, f]) (by rw [hv]), rfl, rfl⟩
  refine ⟨t, ?_, ?_, ?_⟩
  · rw [runTokens_cons _ eu, runTokens_cons _ ev, runTokens_singleton et]
  · rw [ht, hv, hu]
  · rw [htdisplay, hvdisplay, hudisplay, hvcfg, hucfg]
    rfl

/-- Where the text has a byte in the display's 16 columns, the diagnostic shows it on row 0; past its end it shows blanks. -/
theorem diagnosed_cellAt_of_some (d : Display) {t : List Byte} {r c : Nat} (hr : r < 2) (hc : c < 16) {b : Byte}
    (h : t[c]? = some b) : (diagnosed d (t.take 16)).cellAt r c = if r = 0 then .text b else .blank := by
  obtain ⟨hlen, rfl⟩ := List.getElem?_eq_some_iff.1 h
  simp [diagnosed_cellAt d _ hr hc, hc, hlen]
theorem diagnosed_cellAt_of_none (d : Display) {t : List Byte} {r c : Nat} (hr : r < 2) (hc : c < 16)
    (h : t[c]? = none) : (diagnosed d (t.take 16)).cellAt r c = .blank := by
  have hlen : t.length ≤ c := List.getElem?_eq_none_iff.1 h
  simp [diagnosed_cellAt d _ hr hc, hlen]

/-- Settles O59: the run of the three DISP_OK, and the cells that its commands leave. -/
theorem diagnosticIsShownTruncated : Obligations.DiagnosticIsShownTruncated := by
  intro s hp f hd
  obtain ⟨t, hrun, hgfe, hdisplay⟩ := runTokens_diagnostic hp f hd
  refine ⟨t, hrun, hgfe, ?_, ?_, fun row col hr hc => ?_⟩
  · rw [hdisplay]
    exact writeText_slot _ _
  · rw [hdisplay]
    exact writeText_cursor _ _
  · rw [hdisplay]
    cases hb : s.cfg.diagText[col]? with
    | some b => exact diagnosed_cellAt_of_some _ hr hc hb
    | none => exact diagnosed_cellAt_of_none _ hr hc hb

end Sys2Proof.Machine
end

section
/-! The status port (43_status_port.md R113 to R116): a read and the one showing of its answer, and what STATUS tells the
SUPERVISOR under the invariant. STATUS shows STATE, FAULT and OFFSET in their fields (`statusFields`), so what it tells is a
fact about S. -/

namespace Sys2Proof.Machine

/-- No two STATEs share a code (10_state.md R17). -/
theorem Phase.code_inj {p q : Phase} : p.code = q.code ↔ p = q := by
  cases p <;> cases q <;> decide

/-- The diagnostic has a command for each DSTEP up to 2 and none beyond (42_sequencer.md R107; log 13). -/
theorem diagCmd_eq_none_iff (c : Configuration) (d : Nat) : diagCmd c d = none ↔ 2 < d := by
  unfold diagCmd
  split_ifs <;> simp <;> omega

/-- Under the invariant the GFE is without a request exactly in FAULT: in DIAG a command is left, because DSTEP is at most 2
(42_sequencer.md R91, R107; 10_state.md R29 I5). -/
theorem State.Inv.request_eq_none_iff {s : State} (h : s.Inv) : s.request = none ↔ s.gfe.phase = .fault := by
  cases hp : s.gfe.phase with
  | listen => simp [State.request_listen hp]
  | accum => simp [State.request_accum hp]
  | render => simp [State.request_render hp]
  | ack => simp [State.request_ack hp]
  | diag =>
    obtain ⟨-, -, -, hd, -⟩ := h.gfe.i5 hp
    have hd : s.gfe.dstep.toNat ≤ 2 := hd
    simp [State.request_diag hp rfl, diagCmd_eq_none_iff, hd]
  | fault => simp [State.request_fault hp]

/-- Under the invariant FAULT is 1 exactly in DIAG or FAULT (10_state.md R22, R29 I1 to I6). -/
theorem Gfe.Inv.fault_iff {c : Configuration} {g : Gfe} (h : g.Inv c) :
    g.fault = true ↔ g.phase = .diag ∨ g.phase = .fault := by
  cases hp : g.phase with
  | listen =>
    obtain ⟨-, -, -, f, -⟩ := h.i1 hp
    simp [f]
  | accum =>
    obtain ⟨-, -, -, f, -⟩ := h.i2 hp
    simp [f]
  | render => simp [h.unfaulted_of_frame (.inl hp)]
  | ack => simp [h.unfaulted_of_frame (.inr hp)]
  | diag =>
    obtain ⟨f, -⟩ := h.i5 hp
    simp [f]
  | fault =>
    obtain ⟨f, -⟩ := h.i6 hp
    simp [f]

/-- Settles O42: the fields of STATUS read as STATE, FAULT and OFFSET, of which the invariant says the three facts. -/
theorem statusRevealsTheTerminalFault : Obligations.StatusRevealsTheTerminalFault := by
  intro s h
  obtain ⟨hphase, hfault, -, hoffset, -⟩ := statusFields s.cfg s.gfe
  rw [hphase, hfault, hoffset]
  refine ⟨?_, h.gfe.fault_iff, fun hcode => ?_⟩
  · rw [h.request_eq_none_iff]
    exact Phase.code_inj (q := .fault)
  · have hp : s.gfe.phase = .render := Phase.code_inj.1 hcode
    obtain ⟨hfull, -⟩ := h.gfe.i3 hp
    exact hfull

/-- Settles O37: the meaning of STAT_READ makes no distinction of STATE, and its one outcome is the stated one. -/
theorem statusReadHasNoSideEffect : Obligations.StatusReadHasNoSideEffect := fun _ _ => rfl

/-- Settles O38: STAT_VALUE runs exactly when it is the answer due, and clears what makes it run. -/
theorem statusValueIsShownOnce : Obligations.StatusValueIsShownOnce := fun a s hdue =>
  ⟨(execStatValue_next a _ s _).2 ⟨hdue, rfl, rfl⟩, execStatValue_refused fun _ hnone => nomatch hnone⟩

end Sys2Proof.Machine
end

section
/-! What a dutiful environment can bring about (44_environment.md R118, R126): a response it may supply answers the outstanding
request, so no cause that 60_exceptions.md R128 lays to a broken duty is latched, and a read takes the head of the stream. -/

namespace Sys2Proof.Machine

section Duties

variable {i : Instr} {s : State}

/-- Which STATEs hold which request: one for each request of the NET port, RENDER and DIAG for those of the DISP port
(42_sequencer.md R91). -/
theorem State.request_cases {q : Instr} (hq : s.request = some q) :
    (s.gfe.phase = .listen ∧ q = .netAccept) ∨
      (s.gfe.phase = .accum ∧ q = .netRead (BitVec.ofNat 8 s.gfe.need)) ∨
      (s.gfe.phase = .ack ∧ q = .netWrite 0x41#8) ∨
      ((s.gfe.phase = .render ∨ s.gfe.phase = .diag) ∧ q.port = .disp) := by
  cases hp : s.gfe.phase with
  | listen => simpa [State.request_listen hp, eq_comm] using hq
  | accum => simpa [State.request_accum hp, eq_comm] using hq
  | ack => simpa [State.request_ack hp, eq_comm] using hq
  | fault => simp [State.request_fault hp] at hq
  | render =>
    obtain rfl : renderCmd s.cfg s.gfe.step.toNat s.gfe.tbuf = q := by simpa [State.request_render hp] using hq
    exact .inr (.inr (.inr ⟨.inl rfl, renderCmd_port _ _ _⟩))
  | diag =>
    rw [State.request_diag hp rfl] at hq
    exact .inr (.inr (.inr ⟨.inr rfl, diagCmd_port hq⟩))

/-- NET_ACCEPT, NET_READ and NET_WRITE are each outstanding in one STATE (42_sequencer.md R91). -/
theorem State.phase_of_netAccept (hq : s.request = some .netAccept) : s.gfe.phase = .listen := by
  simpa [Instr.port] using State.request_cases hq
theorem State.phase_of_netRead {need : Byte} (hq : s.request = some (.netRead need)) :
    s.gfe.phase = .accum ∧ need = BitVec.ofNat 8 s.gfe.need := by
  simpa [Instr.port] using State.request_cases hq
theorem State.phase_of_netWrite {b : Byte} (hq : s.request = some (.netWrite b)) : s.gfe.phase = .ack := by
  have h : s.gfe.phase = .ack ∧ b = 0x41#8 := by simpa [Instr.port] using State.request_cases hq
  exact h.1

/-- A display command is outstanding in RENDER and DIAG alone (42_sequencer.md R91). -/
theorem State.phase_of_displayCommand (h : s.displayCommandOutstanding = true) :
    s.gfe.phase = .render ∨ s.gfe.phase = .diag := by
  unfold State.displayCommandOutstanding at h
  split at h
  · next q hq =>
    have hport : q.port = .disp := by simpa using h
    obtain ⟨-, rfl⟩ | ⟨-, rfl⟩ | ⟨-, rfl⟩ | ⟨hp, -⟩ := State.request_cases hq
    case inr.inr.inr => exact hp
    all_goals exact nomatch hport
  · exact nomatch h

/-- `need` fits the one byte in which NET_READ carries it (41_framer.md R84, 30_encoding.md R66). -/
theorem Gfe.toNat_ofNat_need (g : Gfe) : (BitVec.ofNat 8 g.need).toNat = g.need := by
  simp only [BitVec.toNat_ofNat, Gfe.need]
  omega

/-- The PEER may answer a NET_READ alone, with at most `need` bytes, all from the head of the stream; with none only once it
has closed and the stream is drained (44_environment.md R118, R126). -/
theorem environmentMay_netData {d : List Byte} (h : environmentMay (.netData d) s = true) :
    s.gfe.phase = .accum ∧ d.length ≤ s.gfe.need ∧ d = s.peer.pending.take d.length ∧
      (d = [] → s.peer.closed = true ∧ s.peer.pending = []) := by
  simp only [environmentMay] at h
  split at h
  · next need hq =>
    obtain ⟨hp, rfl⟩ := State.phase_of_netRead hq
    refine ⟨hp, ?_⟩
    by_cases hd : d = []
    · simpa [hd] using h
    · rw [if_neg hd, Gfe.toNat_ofNat_need] at h
      obtain ⟨hle, htake⟩ := of_decide_eq_true h
      exact ⟨hle, htake, fun hnil => absurd hnil hd⟩
  · exact nomatch h

/-- A response that the environment may supply is accepted in the present STATE, with FAULT = 0; in DIAG that is for R110 and
R111 (44_environment.md R126, 60_exceptions.md R131). -/
theorem acceptedIn_of_environmentMay (hi : isResponse i = true) (h : environmentMay i s = true)
    (hd : s.gfe.phase ≠ .diag) : acceptedIn s.gfe.phase i = true := by
  cases i with
  | netAccepted => simp [State.phase_of_netAccept (of_decide_eq_true h), acceptedIn]
  | netData d => simp [(environmentMay_netData h).1, acceptedIn, Instr.tag]
  | netReadErr =>
    simp only [environmentMay] at h
    split at h
    · next hq => simp [(State.phase_of_netRead hq).1, acceptedIn]
    · exact nomatch h
  | netWriteDone | netWriteErr => simp [State.phase_of_netWrite (of_decide_eq_true h), acceptedIn]
  | dispOk | dispErr => simp [(State.phase_of_displayCommand h).resolve_right hd, acceptedIn]
  | reset | statRead | statValue | netAccept | netRead | netWrite | dispClear | dispWriteText | dispLoadGlyph
  | dispMoveCursor | dispWriteChar => simp [isResponse, Instr.direction, Instr.port] at hi

end Duties

/-- Settles O20: the read is one that ACCUM accepts, and what it takes and what it leaves of the stream make up the stream. -/
theorem readsConserveTheStream : Obligations.ReadsConserveTheStream := by
  intro s d h hne hmay
  obtain ⟨hp, hle, htake, -⟩ := environmentMay_netData hmay
  obtain ⟨-, -, -, f, -⟩ := h.gfe.i2 hp
  refine ⟨_, exec_netData_accum hp f (List.length_pos_iff.2 hne) hle, ?_⟩
  calc s.peer.pending
      = s.peer.pending.take d.length ++ s.peer.pending.drop d.length := (List.take_append_drop _ _).symm
    _ = d ++ s.peer.pending.drop d.length := by rw [← htake]

/-- The fault latch on an unlatched S records its cause (60_exceptions.md R130). -/
theorem raiseFault_cause (k : Cause) {g : Gfe} (f : g.fault = false) : (raiseFault k g).cause = k := by
  obtain ⟨-, h⟩ | ⟨-, h⟩ := raiseFault_cases k g f <;> rw [h]

/-- A read that is accepted latches nothing (41_framer.md R85). -/
theorem acceptBytes_cause (d : List Byte) (g : Gfe) : (acceptBytes d g).cause = g.cause := by
  unfold acceptBytes; dsimp only; split <;> rfl

/-- The end of a frame latches nothing, under either MODE (42_sequencer.md R100). -/
theorem renderDone_cause (c : Configuration) (g : Gfe) : (renderDone c g).cause = g.cause := by
  unfold renderDone; dsimp only; split <;> rfl

/-- A completed command of a frame latches nothing (42_sequencer.md R99). -/
theorem renderNext_cause (c : Configuration) (g : Gfe) : (renderNext c g).cause = g.cause := by
  by_cases h : g.step.toNat < 23
  · rw [renderNext_eq_of_lt c h]
  · obtain ⟨-, -, hdone⟩ := renderNext_cases c g
    rw [hdone (by omega), renderDone_cause]

/-- What raises each cause, with FAULT = 0: the column "raised by" of 60_exceptions.md R128. -/
def Raises (i : Instr) (g : Gfe) : Cause → Prop
  | .none => False
  | .eofAtBoundary => g.phase = .accum ∧ i = .netData [] ∧ g.offset = 0#6
  | .eofMidFrame => g.phase = .accum ∧ i = .netData [] ∧ g.offset ≠ 0#6
  | .rxOverrun => g.phase = .accum ∧ ∃ d, i = .netData d ∧ g.need < d.length
  | .netReadError => g.phase = .accum ∧ i = .netReadErr
  | .ackWriteError => g.phase = .ack ∧ i = .netWriteErr
  | .displayError => g.phase = .render ∧ i = .dispErr
  | .protocolViolation => isResponse i = true ∧ acceptedIn g.phase i = false

/-- The latch takes the cause that is raised. -/
theorem Raises.raiseFault {i : Instr} {g : Gfe} {k : Cause} (h : Raises i g k) (f : g.fault = false) :
    Raises i g (raiseFault k g).cause := by
  rwa [raiseFault_cause k f]

/-- A token other than RESET leaves CAUSE, or latches, with FAULT = 0, a cause that it raises (60_exceptions.md R128, R130,
R132). -/
theorem GfeMove.cause {c : Configuration} {i : Instr} {g g' : Gfe} (m : GfeMove c i g g') :
    g'.cause = g.cause ∨ (g.fault = false ∧ Raises i g g'.cause) := by
  cases m with
  | same | accepted | diagnosed | abandoned | acknowledged => exact .inl rfl
  | bytes d => exact .inl (acceptBytes_cause d g)
  | rendered => exact .inl (renderNext_cause c g)
  | violation f hi ha => exact .inr ⟨f, Raises.raiseFault (k := .protocolViolation) ⟨hi, ha⟩ f⟩
  | endOfStream f hp hi =>
    refine .inr ⟨f, Raises.raiseFault ?_ f⟩
    split <;> exact ⟨hp, hi, ‹_›⟩
  | overrun d f hp hi hlong => exact .inr ⟨f, Raises.raiseFault (k := .rxOverrun) ⟨hp, d, hi, hlong⟩ f⟩
  | readError f hp hi => exact .inr ⟨f, Raises.raiseFault (k := .netReadError) ⟨hp, hi⟩ f⟩
  | displayError f hp hi => exact .inr ⟨f, Raises.raiseFault (k := .displayError) ⟨hp, hi⟩ f⟩
  | ackError f hp hi => exact .inr ⟨f, Raises.raiseFault (k := .ackWriteError) ⟨hp, hi⟩ f⟩

/-- A token that the environment may supply does not raise the overrun: the PEER supplies at most `need` bytes
(44_environment.md R126). -/
theorem not_raises_rxOverrun {i : Instr} {s : State} (hmay : environmentMay i s = true) :
    ¬Raises i s.gfe .rxOverrun := by
  rintro ⟨-, d, rfl, hlong⟩
  obtain ⟨-, hle, -⟩ := environmentMay_netData hmay
  exact absurd hlong (Nat.not_lt.2 hle)

/-- A token that the environment may supply does not raise the violation: with FAULT = 0 the GFE is not in DIAG, and every
response supplied is accepted (44_environment.md R126). -/
theorem State.Inv.not_raises_protocolViolation {i : Instr} {s : State} (h : s.Inv) (f : s.gfe.fault = false)
    (hmay : environmentMay i s = true) : ¬Raises i s.gfe .protocolViolation := by
  rintro ⟨hi, hno⟩
  have hd : s.gfe.phase ≠ .diag := fun hp => by simpa [f] using h.gfe.fault_iff.2 (.inl hp)
  exact absurd (acceptedIn_of_environmentMay hi hmay hd) (by simp [hno])

/-- Settles O56: RESET leaves no cause, and any other token would have to raise the cause it latches. -/
theorem dutifulEnvironmentCausesNoViolation : Obligations.DutifulEnvironmentCausesNoViolation := by
  intro i s t h hmay e hne3 hne7
  by_cases hi : i = .reset
  · subst hi
    obtain ⟨-, rfl⟩ := (execReset_next s t).1 e
    exact ⟨nofun, nofun⟩
  · obtain hkept | ⟨f, hraised⟩ := (exec_next hi e).move.cause
    · rw [hkept]
      exact ⟨hne3, hne7⟩
    · exact ⟨fun hk => not_raises_rxOverrun hmay (hk ▸ hraised),
        fun hk => h.not_raises_protocolViolation f hmay (hk ▸ hraised)⟩

end Sys2Proof.Machine
end

section
/-! Exceptions: the response that was not asked for, the latch until RESET, and what a latched cause records of OFFSET and STEP
(60_exceptions.md R128, R130 to R133). What a cause records is fixed where it is raised, and no token that leaves FAULT = 1 moves
OFFSET or STEP. -/

namespace Sys2Proof.Machine

section Responses

variable {s : State}

/-- Abandoning a command acts on the DISPLAY and the draws alone (70_reset_and_hazards.md R145; log 8). -/
theorem State.abandonCommand_eq :
    s.abandonCommand = { s with display := s.abandonCommand.display, free := s.abandonCommand.free } := by
  unfold State.abandonCommand
  split <;> rfl

/-- Without a display command outstanding there is none to abandon, and the DISPLAY is left (log 8). -/
theorem State.abandonCommand_display_of_idle (h : s.displayCommandOutstanding = false) :
    s.abandonCommand.display = s.display := by
  simp [State.abandonCommand_display, h]

/-- A violation is a terminal fault, and the outstanding display command is abandoned (60_exceptions.md R131; log 8). -/
theorem violation_terminal (f : s.gfe.fault = false) :
    violation s = .next
      { s with
        gfe := { s.gfe with fault := true, cause := .protocolViolation, phase := .fault }
        display := s.abandonCommand.display
        free := s.abandonCommand.free
        due := .nothing } := by
  have f' : s.abandonCommand.gfe.fault = false := by rw [State.abandonCommand_gfe, f]
  rw [violation, takeFault_terminal f' (by decide), State.abandonCommand_eq]

end Responses

/-- Settles O30: an unaccepted response is a violation, which is terminal and reaches the DISPLAY only by the command it
abandons. -/
theorem unaskedResponsesViolateTheProtocol : Obligations.UnaskedResponsesViolateTheProtocol := by
  intro i s hi f ha
  exact ⟨s.abandonCommand.display, s.abandonCommand.free, (exec_of_unaccepted hi f ha).trans (violation_terminal f),
    State.abandonCommand_display_of_idle⟩

/-- Settles O31: outside the two answers of the diagnostic, a response with FAULT = 1 is ignored. -/
theorem faultedMachineIgnoresResponses : Obligations.FaultedMachineIgnoresResponses := by
  intro i s hi f hdiag
  refine exec_of_latched hi f ?_
  rintro ⟨hp, hanswer⟩
  obtain ⟨hok, herr⟩ := hdiag hp
  exact hanswer.elim hok herr

/-- With FAULT = 1 the first cause stays: nothing raises another (60_exceptions.md R132). -/
theorem GfeMove.cause_of_latched {c : Configuration} {i : Instr} {g g' : Gfe} (m : GfeMove c i g g')
    (f : g.fault = true) : g'.cause = g.cause :=
  m.cause.resolve_right fun ⟨f', _⟩ => by simp [f] at f'

/-- Settles O32: no move of S but RESET clears FAULT, and none raises a second cause. -/
theorem faultIsLatchedUntilReset : Obligations.FaultIsLatchedUntilReset := by
  intro i s t f hi e
  have m := (exec_next hi e).move
  exact ⟨m.fault_of_latched f, m.cause_of_latched f⟩

/-- The end of a frame leaves FAULT, under either MODE (42_sequencer.md R100). -/
theorem renderDone_fault (c : Configuration) (g : Gfe) : (renderDone c g).fault = g.fault := by
  unfold renderDone; dsimp only; split <;> rfl

/-- A completed command of a frame leaves FAULT (42_sequencer.md R99). -/
theorem renderNext_fault (c : Configuration) (g : Gfe) : (renderNext c g).fault = g.fault := by
  by_cases h : g.step.toNat < 23
  · rw [renderNext_eq_of_lt c h]
  · obtain ⟨-, -, hdone⟩ := renderNext_cases c g
    rw [hdone (by omega), renderDone_fault]

/-- A token other than RESET that leaves FAULT = 1 leaves OFFSET and STEP: the latch has no other effect, and the diagnostic
moves DSTEP alone (60_exceptions.md R130, R132; 42_sequencer.md R110). -/
theorem GfeMove.frozen_of_fault {c : Configuration} {i : Instr} {g g' : Gfe} (m : GfeMove c i g g')
    (f' : g'.fault = true) : g'.offset = g.offset ∧ g'.step = g.step := by
  cases m with
  | same | diagnosed | abandoned => exact ⟨rfl, rfl⟩
  | violation | endOfStream | overrun | readError | displayError | ackError =>
    exact ⟨raiseFault_offset _ g, raiseFault_step _ g⟩
  | accepted f | acknowledged f => simp [f] at f'
  | bytes d f => simp [f] at f'
  | rendered f => simp [renderNext_fault, f] at f'

/-- What a cause records is read from CAUSE, OFFSET and STEP (60_exceptions.md R128). -/
theorem Gfe.CauseRecorded.congr {g g' : Gfe} (r : g.CauseRecorded) (hc : g'.cause = g.cause)
    (ho : g'.offset = g.offset) (hs : g'.step = g.step) : g'.CauseRecorded := by
  unfold Gfe.CauseRecorded
  rw [hc, ho, hs]
  exact r

/-- Without a cause nothing is recorded. -/
theorem Gfe.causeRecorded_of_none {g : Gfe} (hc : g.cause = .none) : g.CauseRecorded := by
  simp [Gfe.CauseRecorded, hc]

/-- Where a cause is raised, OFFSET and STEP are as it records them: by the invariant of the STATE it is raised in
(60_exceptions.md R128; 10_state.md R29 I2 to I4). -/
theorem Raises.causeRecorded {c : Configuration} {i : Instr} {g : Gfe} {k : Cause} (hr : Raises i g k) (h : g.Inv c) :
    ({ g with cause := k } : Gfe).CauseRecorded := by
  cases k with
  | none | protocolViolation => trivial
  | eofAtBoundary =>
    obtain ⟨-, -, ho⟩ := hr
    exact ho
  | eofMidFrame =>
    obtain ⟨hp, -, ho⟩ := hr
    obtain ⟨hle, -⟩ := h.i2 hp
    have hpos : 1#6 ≤ g.offset := by bv_omega
    exact ⟨hpos, hle⟩
  | rxOverrun | netReadError =>
    obtain ⟨hp, -⟩ := hr
    obtain ⟨hle, -⟩ := h.i2 hp
    exact hle
  | ackWriteError =>
    obtain ⟨hp, -⟩ := hr
    obtain ⟨-, hfull, -⟩ := h.i4 hp
    exact hfull
  | displayError =>
    obtain ⟨hp, -⟩ := hr
    obtain ⟨hfull, -⟩ := h.i3 hp
    exact ⟨hfull, h.stepRange⟩

/-- Everything a token other than RESET can do to S keeps what the cause records: with FAULT = 0 left there is no cause, and
with FAULT = 1 left OFFSET and STEP stand, under the cause kept or the one just raised. -/
theorem GfeMove.causeRecorded {c : Configuration} {i : Instr} {g g' : Gfe} (m : GfeMove c i g g') (h : g.Inv c)
    (r : g.CauseRecorded) : g'.CauseRecorded := by
  cases f' : g'.fault with
  | false =>
    obtain ⟨-, hc⟩ := (m.inv h).unlatched f'
    exact Gfe.causeRecorded_of_none hc
  | true =>
    obtain ⟨ho, hs⟩ := m.frozen_of_fault f'
    obtain hkept | ⟨-, hraised⟩ := m.cause
    · exact r.congr hkept ho hs
    · exact (hraised.causeRecorded h).congr rfl ho hs

/-- Every token keeps what the cause records: RESET leaves no cause (10_state.md R35). -/
theorem exec_causeRecorded {i : Instr} {s t : State} (h : s.Inv) (r : s.gfe.CauseRecorded) (e : exec i s = .next t) :
    t.gfe.CauseRecorded := by
  by_cases hi : i = .reset
  · subst hi
    obtain ⟨-, rfl⟩ := (execReset_next s t).1 e
    exact Gfe.causeRecorded_of_none rfl
  · exact (exec_next hi e).move.causeRecorded h.gfe r

/-- Settles O49: a step runs one token, and the trace it moves is no part of S. -/
theorem stepKeepsWhatTheCauseRecords : Obligations.StepKeepsWhatTheCauseRecords := by
  intro s t h r e
  obtain ⟨i, rest, -, e⟩ := step_next s t e
  have h' : (s.withTrace rest).Inv := ⟨h.gfe, h.legal⟩
  exact exec_causeRecorded h' r e

end Sys2Proof.Machine
end

section
/-! The configuration, sampled at RESET and constant until the next one (70_reset_and_hazards.md R144). -/

namespace Sys2Proof.Machine

/-- The restarted machine with its request issued runs with the configuration at the inputs, and has left the inputs and the
trace as they were (70_reset_and_hazards.md R144; log 1, log 6). -/
theorem execReset_samples {s t : State} (e : execReset s = .next t) :
    t.cfg = s.cfgIn ∧ t.cfgIn = s.cfgIn ∧ t.trace = s.trace := by
  obtain ⟨-, rfl⟩ := (execReset_next s t).1 e
  exact ⟨by simp, by simp, by simp⟩

/-- Settles O12: RESET by what it samples, every other token by what `ExecNext` says it keeps. -/
theorem configurationIsConstant : Obligations.ConfigurationIsConstant := by
  intro i s t e
  by_cases hi : i = .reset
  · subst hi
    obtain ⟨hsampled, hinputs, htrace⟩ := execReset_samples e
    exact ⟨fun h => absurd rfl h, fun _ => hsampled, hinputs, htrace⟩
  · have n := exec_next hi e
    exact ⟨fun _ => n.cfg, fun h => absurd h hi, n.cfgIn, n.trace⟩

end Sys2Proof.Machine
end
